-- ==== Sys2Proof/Word.lean ====
section
/-! DEFINITION. The word types of the block (spec/00_scope.md R9, R12; spec/10_state.md R101).
Bit vectors are what the spec treats as bits; register numbers and hex keys are indices. -/

namespace Sys2Proof

/-- A general register, a memory byte, an 8-bit constant (R9, R101). -/
abbrev Byte := BitVec 8

/-- I, pc, a stack entry, a timer register, an instruction word (R9, R300). -/
abbrev Word := BitVec 16

/-- A general register number V0..VF (R101: "every index is in 0..15"). -/
abbrev Reg := Fin 16

/-- A hex key 0..F (R10 `NUM_KEYS` = 16, R141). -/
abbrev Key := Fin 16

/-- VF, the flag register (R104). -/
abbrev VF : Reg := 15

end Sys2Proof
end

