-- ==== Sys2Proof/Config.lean ====
section
/-! DEFINITION. What is fixed when the block is built: the parameters of spec/00_scope.md R8 to R10,
the font of spec/20_memory.md R211, and the free value of the random port (spec/10_state.md R143). -/

namespace Sys2Proof

/-- First address of the font (R8 `FONT_START`). -/
abbrev fontStart : Nat := 0x050

/-- Size of the font in bytes (R8 `FONT_BYTES`). -/
abbrev fontBytes : Nat := 80

/-- Bytes per glyph (R212). -/
abbrev glyphBytes : Nat := 5

/-- First address of the program, and the entry point (R8 `ROM_START`, R701). -/
abbrev romStart : Nat := 0x200

/-- The parameters fixed when the block is built (R8, R9, R10, R211). -/
structure Config where
  /-- `CAPACITY`: size of memory in bytes. -/
  capacity : Nat
  /-- `FONT`: the 80 bytes `load` places at `FONT_START`. -/
  font : Vector Byte 80
  /-- `STACK_DEPTH`: the most entries the call stack holds. -/
  stackDepth : Nat
  /-- `LEGACY_SHIFT`: 8XY6 and 8XYE first copy VY into VX. -/
  legacyShift : Bool
  /-- `LEGACY_JUMP_OFFSET`: BNNN adds V0 instead of VX. -/
  legacyJumpOffset : Bool
  /-- `STRICT_DECODE`: every non-canonical word decodes as unknown. -/
  strictDecode : Bool
  /-- `DISPLAY_W`: display width in cells. -/
  displayW : Nat
  /-- `DISPLAY_H`: display height in cells. -/
  displayH : Nat
  deriving DecidableEq, Repr

/-- The admitted parameter values (spec/92_eei_decisions.md, "Parameters left open"; D2). -/
def Config.wf (c : Config) : Bool :=
  decide (0x200 ≤ c.capacity) && decide (c.capacity ≤ 0x10000) && decide (1 ≤ c.stackDepth) &&
    decide (1 ≤ c.displayW) && decide (1 ≤ c.displayH)

/-- Glyphs 0 to 3 (R211; glyph 0 from the source, the others the default of decision D4). -/
def glyphs0to3 : List Byte :=
  [0xF0, 0x90, 0x90, 0x90, 0xF0] ++ [0x20, 0x60, 0x20, 0x20, 0x70] ++
  [0xF0, 0x10, 0xF0, 0x80, 0xF0] ++ [0xF0, 0x10, 0xF0, 0x10, 0xF0]

/-- Glyphs 4 to 7 (R211). -/
def glyphs4to7 : List Byte :=
  [0x90, 0x90, 0xF0, 0x10, 0x10] ++ [0xF0, 0x80, 0xF0, 0x10, 0xF0] ++
  [0xF0, 0x80, 0xF0, 0x90, 0xF0] ++ [0xF0, 0x10, 0x20, 0x40, 0x40]

/-- Glyphs 8 to B (R211). -/
def glyphs8toB : List Byte :=
  [0xF0, 0x90, 0xF0, 0x90, 0xF0] ++ [0xF0, 0x90, 0xF0, 0x10, 0xF0] ++
  [0xF0, 0x90, 0xF0, 0x90, 0x90] ++ [0xE0, 0x90, 0xE0, 0x90, 0xE0]

/-- Glyphs C to F (R211). -/
def glyphsCtoF : List Byte :=
  [0xF0, 0x80, 0x80, 0x80, 0xF0] ++ [0xE0, 0x90, 0x90, 0x90, 0xE0] ++
  [0xF0, 0x80, 0xF0, 0x80, 0xF0] ++ [0xF0, 0x80, 0xF0, 0x80, 0x80]

/-- The default `FONT` (R211, D4). -/
def standardFont : Vector Byte 80 :=
  ⟨(glyphs0to3 ++ glyphs4to7 ++ glyphs8toB ++ glyphsCtoF).toArray, rfl⟩

/-- The default of every parameter (R8, R9, R10). -/
def Config.standard : Config where
  capacity := 4096
  font := standardFont
  stackDepth := 16
  legacyShift := false
  legacyJumpOffset := true
  strictDecode := false
  displayW := 64
  displayH := 32

/-- FREE VALUE: the byte that the k-th call of `RandomByte()` answers (R143: "any byte, under no law";
D22). It has no body, so nothing can be proved about its value. DESIGN CHOICE, log entry 3. -/
opaque Config.randomByte : Nat → Byte

end Sys2Proof
end

