-- ==== Sys2Proof/Syntax.lean ====
section
/-! DEFINITION. The instructions: one constructor per row of spec/opcode_table.json, in the table's
order (spec/30_encoding.md R304, R310), the fallback `UNKNOWN` included (R311). Operand names follow
spec/00_scope.md R15. -/

namespace Sys2Proof

/-- A decoded instruction (R304). The docstring of each constructor gives its pattern, its assembler
spelling (R314) and its rule. -/
inductive Instr where
  /-- 00E0 `CLS` (R540) -/
  | cls
  /-- 00EE `RET` (R420) -/
  | ret
  /-- 1NNN `JP addr` (R423) -/
  | jp (nnn : BitVec 12)
  /-- 2NNN `CALL addr` (R425) -/
  | call (nnn : BitVec 12)
  /-- 3XNN `SE Vx, byte` (R430) -/
  | seByte (x : Reg) (nn : Byte)
  /-- 4XNN `SNE Vx, byte` (R432) -/
  | sneByte (x : Reg) (nn : Byte)
  /-- 5XY0 `SE Vx, Vy` (R434) -/
  | seReg (x y : Reg)
  /-- 6XNN `LD Vx, byte` (R450) -/
  | ldByte (x : Reg) (nn : Byte)
  /-- 7XNN `ADD Vx, byte` (R452) -/
  | addByte (x : Reg) (nn : Byte)
  /-- 8XY0 `LD Vx, Vy` (R455) -/
  | ldReg (x y : Reg)
  /-- 8XY1 `OR Vx, Vy` (R457) -/
  | orReg (x y : Reg)
  /-- 8XY2 `AND Vx, Vy` (R459) -/
  | andReg (x y : Reg)
  /-- 8XY3 `XOR Vx, Vy` (R461) -/
  | xorReg (x y : Reg)
  /-- 8XY4 `ADD Vx, Vy` (R463) -/
  | addReg (x y : Reg)
  /-- 8XY5 `SUB Vx, Vy` (R466) -/
  | subReg (x y : Reg)
  /-- 8XY6 `SHR Vx, Vy` (R469) -/
  | shr (x y : Reg)
  /-- 8XY7 `SUBN Vx, Vy` (R472) -/
  | subnReg (x y : Reg)
  /-- 8XYE `SHL Vx, Vy` (R475) -/
  | shl (x y : Reg)
  /-- 9XY0 `SNE Vx, Vy` (R436) -/
  | sneReg (x y : Reg)
  /-- ANNN `LD I, addr` (R500) -/
  | ldI (nnn : BitVec 12)
  /-- BNNN `JP V0, addr` or `JP Vx, addr` (R440) -/
  | jpOffset (nnn : BitVec 12)
  /-- CXNN `RND Vx, byte` (R480) -/
  | rnd (x : Reg) (nn : Byte)
  /-- DXYN `DRW Vx, Vy, nibble` (R546) -/
  | drw (x y : Reg) (n : BitVec 4)
  /-- EX9E `SKP Vx` (R550) -/
  | skp (x : Reg)
  /-- EXA1 `SKNP Vx` (R552) -/
  | sknp (x : Reg)
  /-- FX07 `LD Vx, DT` (R582) -/
  | ldFromDT (x : Reg)
  /-- FX0A `LD Vx, K` (R560) -/
  | ldKey (x : Reg)
  /-- FX15 `LD DT, Vx` (R585) -/
  | ldDT (x : Reg)
  /-- FX18 `LD ST, Vx` (R587) -/
  | ldST (x : Reg)
  /-- FX1E `ADD I, Vx` (R503) -/
  | addI (x : Reg)
  /-- FX29 `LD F, Vx` (R508) -/
  | ldGlyph (x : Reg)
  /-- FX33 `LD B, Vx` (R515) -/
  | ldBcd (x : Reg)
  /-- FX55 `LD [I], Vx` (R520) -/
  | storeRegs (x : Reg)
  /-- FX65 `LD Vx, [I]` (R528) -/
  | loadRegs (x : Reg)
  /-- UNKNOWN `DW word`: any word no row maps (R311, R406) -/
  | unknown (w : Word)
  deriving DecidableEq, Repr

/-- The instruction's row in spec/opcode_table.json (its `mnemonic`). -/
def Instr.mnemonic : Instr → String
  | .cls => "00E0"
  | .ret => "00EE"
  | .jp _ => "1NNN"
  | .call _ => "2NNN"
  | .seByte _ _ => "3XNN"
  | .sneByte _ _ => "4XNN"
  | .seReg _ _ => "5XY0"
  | .ldByte _ _ => "6XNN"
  | .addByte _ _ => "7XNN"
  | .ldReg _ _ => "8XY0"
  | .orReg _ _ => "8XY1"
  | .andReg _ _ => "8XY2"
  | .xorReg _ _ => "8XY3"
  | .addReg _ _ => "8XY4"
  | .subReg _ _ => "8XY5"
  | .shr _ _ => "8XY6"
  | .subnReg _ _ => "8XY7"
  | .shl _ _ => "8XYE"
  | .sneReg _ _ => "9XY0"
  | .ldI _ => "ANNN"
  | .jpOffset _ => "BNNN"
  | .rnd _ _ => "CXNN"
  | .drw _ _ _ => "DXYN"
  | .skp _ => "EX9E"
  | .sknp _ => "EXA1"
  | .ldFromDT _ => "FX07"
  | .ldKey _ => "FX0A"
  | .ldDT _ => "FX15"
  | .ldST _ => "FX18"
  | .addI _ => "FX1E"
  | .ldGlyph _ => "FX29"
  | .ldBcd _ => "FX33"
  | .storeRegs _ => "FX55"
  | .loadRegs _ => "FX65"
  | .unknown _ => "UNKNOWN"

end Sys2Proof
end

