-- ==== Sys2Proof/WellFormed.lean ====
section
/-! DEFINITION. The opcode map as the table prints it (spec/30_encoding.md R310) and the check on an
instruction. Operands have the exact width of their fields, so the one thing left to check is that an
`unknown` instruction carries a word of the unknown space (R311). The decoder (Decode.lean) is written
from the switch of R304 and not from this table; that the two agree is a statement. -/

namespace Sys2Proof

/-- One row of R310: a word is the row's when `w &&& mask = bits`. `ignored` are the bits the decoder
does not test and the row has no field for (R305). -/
structure OpcodeRow where
  mnemonic : String
  bits : Word
  mask : Word
  ignored : Word
  deriving DecidableEq, Repr

/-- Rows 1 to 9 of R310. -/
def rows1to9 : List OpcodeRow :=
  [⟨"00E0", 0x00E0, 0xF0FF, 0x0F00⟩, ⟨"00EE", 0x00EE, 0xF0FF, 0x0F00⟩,
   ⟨"1NNN", 0x1000, 0xF000, 0⟩, ⟨"2NNN", 0x2000, 0xF000, 0⟩, ⟨"3XNN", 0x3000, 0xF000, 0⟩,
   ⟨"4XNN", 0x4000, 0xF000, 0⟩, ⟨"5XY0", 0x5000, 0xF000, 0x000F⟩, ⟨"6XNN", 0x6000, 0xF000, 0⟩,
   ⟨"7XNN", 0x7000, 0xF000, 0⟩]

/-- Rows 10 to 19 of R310. -/
def rows10to19 : List OpcodeRow :=
  [⟨"8XY0", 0x8000, 0xF00F, 0⟩, ⟨"8XY1", 0x8001, 0xF00F, 0⟩, ⟨"8XY2", 0x8002, 0xF00F, 0⟩,
   ⟨"8XY3", 0x8003, 0xF00F, 0⟩, ⟨"8XY4", 0x8004, 0xF00F, 0⟩, ⟨"8XY5", 0x8005, 0xF00F, 0⟩,
   ⟨"8XY6", 0x8006, 0xF00F, 0⟩, ⟨"8XY7", 0x8007, 0xF00F, 0⟩, ⟨"8XYE", 0x800E, 0xF00F, 0⟩,
   ⟨"9XY0", 0x9000, 0xF000, 0x000F⟩]

/-- Rows 20 to 34 of R310. -/
def rows20to34 : List OpcodeRow :=
  [⟨"ANNN", 0xA000, 0xF000, 0⟩, ⟨"BNNN", 0xB000, 0xF000, 0⟩, ⟨"CXNN", 0xC000, 0xF000, 0⟩,
   ⟨"DXYN", 0xD000, 0xF000, 0⟩, ⟨"EX9E", 0xE09E, 0xF0FF, 0⟩, ⟨"EXA1", 0xE0A1, 0xF0FF, 0⟩] ++
  [⟨"FX07", 0xF007, 0xF0FF, 0⟩, ⟨"FX0A", 0xF00A, 0xF0FF, 0⟩, ⟨"FX15", 0xF015, 0xF0FF, 0⟩,
   ⟨"FX18", 0xF018, 0xF0FF, 0⟩, ⟨"FX1E", 0xF01E, 0xF0FF, 0⟩, ⟨"FX29", 0xF029, 0xF0FF, 0⟩,
   ⟨"FX33", 0xF033, 0xF0FF, 0⟩, ⟨"FX55", 0xF055, 0xF0FF, 0⟩, ⟨"FX65", 0xF065, 0xF0FF, 0⟩]

/-- The opcode map (R310). -/
def opcodeRows : List OpcodeRow := rows1to9 ++ rows10to19 ++ rows20to34

/-- The row takes the word: R310's match, and under `STRICT_DECODE` only with every ignored bit zero
(R306). -/
def OpcodeRow.takes (strict : Bool) (r : OpcodeRow) (w : Word) : Bool :=
  w &&& r.mask == r.bits && (!strict || w &&& r.ignored == 0)

/-- Some row takes the word. The words no row takes are the unknown space (R311). -/
def mapped (strict : Bool) (w : Word) : Bool := opcodeRows.any (·.takes strict w)

/-- The instruction is one some word can stand for, under this setting of `STRICT_DECODE`: every
operand fits its field by its type, and an `unknown` word is one that no row takes (R311). -/
def WellFormed (strict : Bool) : Instr → Bool
  | .unknown w => !mapped strict w
  | .cls | .ret | .jp _ | .call _ | .seByte _ _ | .sneByte _ _ | .seReg _ _ => true
  | .ldByte _ _ | .addByte _ _ | .ldReg _ _ | .orReg _ _ | .andReg _ _ | .xorReg _ _ => true
  | .addReg _ _ | .subReg _ _ | .shr _ _ | .subnReg _ _ | .shl _ _ | .sneReg _ _ => true
  | .ldI _ | .jpOffset _ | .rnd _ _ | .drw _ _ _ | .skp _ | .sknp _ => true
  | .ldFromDT _ | .ldKey _ | .ldDT _ | .ldST _ | .addI _ | .ldGlyph _ | .ldBcd _ => true
  | .storeRegs _ | .loadRegs _ => true

end Sys2Proof
end

