-- ==== Sys2Proof/Decode.lean ====
section
/-! DEFINITION. The opcode views (spec/30_encoding.md R301), the decoder (R304 to R306), and after it
the encoder (R302, R310). Decode is pure: it reads the word and `STRICT_DECODE` only (R307). -/

namespace Sys2Proof

/-! ### Views of a word (spec/00_scope.md R12, R15; R301) -/

/-- `nibble(pos)`: bits `4*pos+3` down to `4*pos`. -/
def nibble (w : Word) (pos : Nat) : BitVec 4 := w.extractLsb' (4 * pos) 4

/-- `byte(pos)`: bits `8*pos+7` down to `8*pos`. -/
def byteOf (w : Word) (pos : Nat) : Byte := w.extractLsb' (8 * pos) 8

/-- `addr12()`: bits 11 down to 0, the field NNN. -/
def addr12 (w : Word) : BitVec 12 := w.extractLsb' 0 12

/-- The field X. -/
def fieldX (w : Word) : Reg := (nibble w 2).toFin

/-- The field Y. -/
def fieldY (w : Word) : Reg := (nibble w 1).toFin

/-- The word of two bytes, the first the more significant (R208, R300). -/
def wordOfBytes (hi lo : Byte) : Word := hi.setWidth 16 <<< 8 ||| lo.setWidth 16

/-! ### Decode -/

/-- Family 0 (R304): the low byte selects. -/
def decodeFamily0 (w : Word) : Instr :=
  match byteOf w 0 with
  | 0xE0#8 => .cls
  | 0xEE#8 => .ret
  | _ => .unknown w

/-- Family 8 (R304): the low nibble selects. -/
def decodeFamily8 (w : Word) : Instr :=
  match nibble w 0 with
  | 0x0#4 => .ldReg (fieldX w) (fieldY w)
  | 0x1#4 => .orReg (fieldX w) (fieldY w)
  | 0x2#4 => .andReg (fieldX w) (fieldY w)
  | 0x3#4 => .xorReg (fieldX w) (fieldY w)
  | 0x4#4 => .addReg (fieldX w) (fieldY w)
  | 0x5#4 => .subReg (fieldX w) (fieldY w)
  | 0x6#4 => .shr (fieldX w) (fieldY w)
  | 0x7#4 => .subnReg (fieldX w) (fieldY w)
  | 0xE#4 => .shl (fieldX w) (fieldY w)
  | _ => .unknown w

/-- Family E (R304): the low byte selects. -/
def decodeFamilyE (w : Word) : Instr :=
  match byteOf w 0 with
  | 0x9E#8 => .skp (fieldX w)
  | 0xA1#8 => .sknp (fieldX w)
  | _ => .unknown w

/-- Family F (R304): the low byte selects. -/
def decodeFamilyF (w : Word) : Instr :=
  match byteOf w 0 with
  | 0x07#8 => .ldFromDT (fieldX w)
  | 0x0A#8 => .ldKey (fieldX w)
  | 0x15#8 => .ldDT (fieldX w)
  | 0x18#8 => .ldST (fieldX w)
  | 0x1E#8 => .addI (fieldX w)
  | 0x29#8 => .ldGlyph (fieldX w)
  | 0x33#8 => .ldBcd (fieldX w)
  | 0x55#8 => .storeRegs (fieldX w)
  | 0x65#8 => .loadRegs (fieldX w)
  | _ => .unknown w

/-- The switch of R304: the top nibble, then in families 0, 8, E and F a low nibble or byte. Bits it
does not name are ignored (R305). -/
def decodeFields (w : Word) : Instr :=
  match nibble w 3 with
  | 0x0#4 => decodeFamily0 w
  | 0x1#4 => .jp (addr12 w)
  | 0x2#4 => .call (addr12 w)
  | 0x3#4 => .seByte (fieldX w) (byteOf w 0)
  | 0x4#4 => .sneByte (fieldX w) (byteOf w 0)
  | 0x5#4 => .seReg (fieldX w) (fieldY w)
  | 0x6#4 => .ldByte (fieldX w) (byteOf w 0)
  | 0x7#4 => .addByte (fieldX w) (byteOf w 0)
  | 0x8#4 => decodeFamily8 w
  | 0x9#4 => .sneReg (fieldX w) (fieldY w)
  | 0xA#4 => .ldI (addr12 w)
  | 0xB#4 => .jpOffset (addr12 w)
  | 0xC#4 => .rnd (fieldX w) (byteOf w 0)
  | 0xD#4 => .drw (fieldX w) (fieldY w) (nibble w 0)
  | 0xE#4 => decodeFamilyE w
  | _ => decodeFamilyF w  -- 0xF, the one value left

/-- The bits of an instruction's word that the decoder does not test and that are no field (R305). -/
def ignoredBits : Instr → Word
  | .cls | .ret => 0x0F00
  | .seReg _ _ | .sneReg _ _ => 0x000F
  | .jp _ | .call _ | .seByte _ _ | .sneByte _ _ | .ldByte _ _ | .addByte _ _ | .ldReg _ _ => 0
  | .orReg _ _ | .andReg _ _ | .xorReg _ _ | .addReg _ _ | .subReg _ _ | .shr _ _ => 0
  | .subnReg _ _ | .shl _ _ | .ldI _ | .jpOffset _ | .rnd _ _ | .drw _ _ _ | .skp _ => 0
  | .sknp _ | .ldFromDT _ | .ldKey _ | .ldDT _ | .ldST _ | .addI _ | .ldGlyph _ => 0
  | .ldBcd _ | .storeRegs _ | .loadRegs _ | .unknown _ => 0

/-- `decode(w)` (R304), total on words. With `STRICT_DECODE` a word with an ignored bit set takes the
unknown fallback (R306, D13). -/
def decode (strict : Bool) (w : Word) : Instr :=
  if strict && w &&& ignoredBits (decodeFields w) != 0 then .unknown w else decodeFields w

/-- Why bytes hold no instruction. -/
inductive DecodeError where
  /-- Fewer than the two bytes of an instruction are left (R300); `n` is how many. -/
  | truncated (n : Nat)
  deriving DecidableEq, Repr

/-- Decode the first instruction of a byte sequence, big-endian, and give the bytes after it (R208,
R300). Every pair of bytes decodes; only a sequence of fewer than two bytes is rejected. -/
def decodeBytes (strict : Bool) : List Byte → Except DecodeError (Instr × List Byte)
  | hi :: lo :: rest => .ok (decode strict (wordOfBytes hi lo), rest)
  | [b] => .error (.truncated [b].length)
  | [] => .error (.truncated 0)

/-! ### Encode -/

/-- Place a field's value with its lowest bit at bit `lsb` of a word. -/
def place {n : Nat} (lsb : Nat) (field : BitVec n) : Word := field.setWidth 16 <<< lsb

/-- The bits of a register number. -/
def regBits (r : Reg) : BitVec 4 := BitVec.ofFin r

/-- Format Z (R302): an 8-bit sub-operation, the ignored bits zero (R306). -/
def formatZ (sub : Byte) : Word := place 0 sub

/-- Format A (R302): operation and 12-bit address. -/
def formatA (op : BitVec 4) (nnn : BitVec 12) : Word := place 12 op ||| place 0 nnn

/-- Format XNN (R302): operation, register, byte. Format XS is the same layout with the byte a
sub-operation. -/
def formatXNN (op : BitVec 4) (x : Reg) (nn : Byte) : Word :=
  place 12 op ||| place 8 (regBits x) ||| place 0 nn

/-- Formats XY and XYN (R302): operation, two registers, and the low nibble, which is the
sub-operation, the row count, or zero where it is ignored (R306). -/
def formatXYN (op : BitVec 4) (x y : Reg) (n : BitVec 4) : Word :=
  place 12 op ||| place 8 (regBits x) ||| place 4 (regBits y) ||| place 0 n

/-- The canonical word of an instruction (R302, R306, R310). -/
def encode : Instr → Word
  | .cls => formatZ 0xE0
  | .ret => formatZ 0xEE
  | .jp nnn => formatA 0x1 nnn
  | .call nnn => formatA 0x2 nnn
  | .seByte x nn => formatXNN 0x3 x nn
  | .sneByte x nn => formatXNN 0x4 x nn
  | .seReg x y => formatXYN 0x5 x y 0x0
  | .ldByte x nn => formatXNN 0x6 x nn
  | .addByte x nn => formatXNN 0x7 x nn
  | .ldReg x y => formatXYN 0x8 x y 0x0
  | .orReg x y => formatXYN 0x8 x y 0x1
  | .andReg x y => formatXYN 0x8 x y 0x2
  | .xorReg x y => formatXYN 0x8 x y 0x3
  | .addReg x y => formatXYN 0x8 x y 0x4
  | .subReg x y => formatXYN 0x8 x y 0x5
  | .shr x y => formatXYN 0x8 x y 0x6
  | .subnReg x y => formatXYN 0x8 x y 0x7
  | .shl x y => formatXYN 0x8 x y 0xE
  | .sneReg x y => formatXYN 0x9 x y 0x0
  | .ldI nnn => formatA 0xA nnn
  | .jpOffset nnn => formatA 0xB nnn
  | .rnd x nn => formatXNN 0xC x nn
  | .drw x y n => formatXYN 0xD x y n
  | .skp x => formatXNN 0xE x 0x9E
  | .sknp x => formatXNN 0xE x 0xA1
  | .ldFromDT x => formatXNN 0xF x 0x07
  | .ldKey x => formatXNN 0xF x 0x0A
  | .ldDT x => formatXNN 0xF x 0x15
  | .ldST x => formatXNN 0xF x 0x18
  | .addI x => formatXNN 0xF x 0x1E
  | .ldGlyph x => formatXNN 0xF x 0x29
  | .ldBcd x => formatXNN 0xF x 0x33
  | .storeRegs x => formatXNN 0xF x 0x55
  | .loadRegs x => formatXNN 0xF x 0x65
  | .unknown w => w

/-- The two bytes of an instruction as memory holds them, the more significant first (R208). -/
def encodeBytes (i : Instr) : List Byte := [byteOf (encode i) 1, byteOf (encode i) 0]

/-- A word is canonical when it is unknown or equals the canonical encoding of what it decodes to
(R306). -/
def canonical (w : Word) : Bool := encode (decodeFields w) == w

/-! ### The host's reading of a table word -/

/-- The word the host means: the low `nbits` bits of `w`, the bits above them zero. -/
def tableWord (nbits w : Nat) : Word := BitVec.ofNat 16 (w % 2 ^ nbits)

/-- The instruction the decoder reads from a word numbered as spec/opcode_table.json numbers it, with
the default `STRICT_DECODE`. The word is laid out big-endian and given to `decodeBytes`. -/
def decodeTableWord (nbits w : Nat) : Option Instr :=
  let word := tableWord nbits w
  match decodeBytes Config.standard.strictDecode [byteOf word 1, byteOf word 0] with
  | .ok (i, _) => some i
  | .error _ => none

end Sys2Proof
end

