-- ==== Sys2Proof/Machine/State.lean ====
section
/-! DEFINITION. The state of the block as plain data (spec/10_state.md R100), with the collaborators'
state that the ports expose (R140 to R144), the reasons a step stops, and the state after reset
(spec/70_reset_and_hazards.md R701). -/

namespace Sys2Proof.Machine

/-- Memory: the cells that differ from what `load` of an empty program leaves, in rising address order
(log entry 4; `Memory.wf` in Ops.lean). -/
abbrev Memory := List Host.Cell

/-- A cell of the display grid: column (0 = left) and row (0 = top) (spec/44_display_input.md R541). -/
structure Pixel where
  col : Nat
  row : Nat
  deriving DecidableEq, Repr

/-- The display grid as the list of its lit cells in raster order (log entry 7; `Grid.wf` in
Display.lean). A cell that is not listed is off. -/
abbrev Grid := List Pixel

/-- The fatal causes (spec/60_exceptions.md R604). -/
inductive Cause where
  | fetchOutOfBounds
  | memoryOutOfBounds
  | stackUnderflow
  | stackOverflow
  | keyOutOfRange
  | digitOutOfRange
  deriving DecidableEq, Repr

/-- `status` (R119): running, or halted for good by `cause` at the instruction at `p` with the word
`w`, absent when the fetch itself failed (R601). -/
inductive Status where
  | running
  | halted (cause : Cause) (p : Word) (w : Option Word)
  deriving DecidableEq, Repr

/-- One `UnknownOpcode(p, w)` event of the report port (R144, R610). -/
structure Report where
  p : Word
  w : Word
  deriving DecidableEq, Repr

/-- The state of the machine. -/
structure State where
  /-- The build parameters (R8 to R10). No step changes them (log entry 1). -/
  cfg : Config
  /-- General registers V0..VF (R101). -/
  V : Vector Byte 16
  /-- The index register (R106). -/
  I : Word
  /-- The program counter (R108). -/
  pc : Word
  /-- The delay timer, 8.8 fixed point (R111, R112). -/
  DT : Word
  /-- The sound timer, 8.8 fixed point (R111, R112). -/
  ST : Word
  /-- The call stack, the last entry the most recently pushed (R13, R115). -/
  stack : List Word
  /-- Memory (R123, R200). -/
  mem : Memory
  /-- The key a pending FX0A has seen pressed (R118). -/
  waitKey : Option Key
  /-- Running or halted (R119). -/
  status : Status
  /-- The display collaborator's grid (R140, R541). -/
  fb : Grid
  /-- The level of each hex key, the key port's input (R141, R549). Only the host changes it. -/
  keys : Vector Bool 16
  /-- How many times `RandomByte()` has been called: the MODEL's field (R143; log entry 3). -/
  draws : Nat
  /-- The events emitted on the report port, oldest first: the MODEL's record of an output (R144; log
  entry 6). -/
  reports : List Report
  deriving DecidableEq, Repr

/-- Why a step stops the machine. -/
inductive Fault where
  /-- Raised by `step` on a block whose status is already `Halted(cause, p, w)`: nothing runs any more
  (R407, R602: "A model should treat a Halted state as a fault, never as a normal end of run"). The step
  that raised the fatal error was itself a next state. SAFE: the machine stops where the block does
  nothing. -/
  | halted (cause : Cause) (p : Word) (w : Option Word)
  deriving DecidableEq, Repr

/-- Why an instruction has no meaning in the model. -/
inductive Refusal where
  /-- Raised by `exec` for an instruction that has no meaning yet. No arm does: every row of the opcode
  table has its meaning. SAFE. -/
  | notModelled (mnemonic : String)
  deriving DecidableEq, Repr

/-- The state after `load` of an empty program on a block built with `cfg` (R701). -/
def State.resetWith (cfg : Config) : State where
  cfg := cfg
  V := Vector.replicate 16 0x00
  I := 0x0000
  pc := 0x0200
  DT := 0x0000
  ST := 0x0000
  stack := []
  mem := []
  waitKey := none
  status := .running
  fb := []
  keys := Vector.replicate 16 false
  draws := 0
  reports := []

/-- The state after reset of a block built with every parameter at its default, no program loaded
(R701; log entry 8). -/
def State.reset : State := State.resetWith Config.standard

end Sys2Proof.Machine
end

