-- ==== Sys2Proof/Machine/Ops.lean ====
section
/-! DEFINITION. The named operations over memory, registers, pc and stack, and taking a fatal error. -/

namespace Sys2Proof.Machine

/-! ### Memory (spec/20_memory.md) -/

/-- What an address that no cell lists reads as: the font at `FONT_START`, zero elsewhere (R201, R210,
R211; D3). -/
def Memory.unlisted (cfg : Config) (a : Nat) : Byte :=
  if h : fontStart ≤ a ∧ a < fontStart + fontBytes then
    cfg.font[a - fontStart]'(Nat.sub_lt_left_of_lt_add h.1 h.2)
  else 0x00

/-- The byte at an address. Bounds are checked by the callers (`memRead`, `fetch`). -/
def Memory.read (cfg : Config) (m : Memory) (a : Nat) : Byte :=
  match m with
  | [] => Memory.unlisted cfg a
  | c :: rest => if c.1 = a then c.2 else Memory.read cfg rest a

/-- Remove the cell of an address. -/
def Memory.erase (a : Nat) : Memory → Memory
  | [] => []
  | c :: rest => if c.1 = a then rest else c :: Memory.erase a rest

/-- Put a cell at its place in the rising order, in place of the address's old one. -/
def Memory.insert (a : Nat) (b : Byte) : Memory → Memory
  | [] => [(a, b)]
  | c :: rest =>
    if c.1 = a then (a, b) :: rest
    else if a < c.1 then (a, b) :: c :: rest
    else c :: Memory.insert a b rest

/-- Write one byte, keeping the canonical form: a byte equal to what an unlisted address reads as is
not listed. -/
def Memory.write (cfg : Config) (m : Memory) (a : Nat) (b : Byte) : Memory :=
  if b = Memory.unlisted cfg a then Memory.erase a m else Memory.insert a b m

/-- `n` bytes from `a` up, the byte at `a` first (R203, R213). -/
def Memory.readBytes (cfg : Config) (m : Memory) (a : Nat) : Nat → List Byte
  | 0 => []
  | n + 1 => Memory.read cfg m a :: Memory.readBytes cfg m (a + 1) n

/-- Write bytes from `a` up, the first at `a` (R204). -/
def Memory.writeBytes (cfg : Config) (m : Memory) (a : Nat) : List Byte → Memory
  | [] => m
  | b :: bs => Memory.writeBytes cfg (Memory.write cfg m a b) (a + 1) bs

/-- The canonical form: addresses strictly rising, and no cell equal to what its address reads as when
it is not listed. -/
abbrev Memory.wf (cfg : Config) (m : Memory) : Prop :=
  m.Pairwise (fun c d => c.1 < d.1) ∧ ∀ c ∈ m, c.2 ≠ Memory.unlisted cfg c.1

/-- Every listed cell is inside the address space (R200). -/
abbrev Memory.inSpace (cfg : Config) (m : Memory) : Prop := ∀ c ∈ m, c.1 < cfg.capacity

/-- The byte at an address of the state's memory. -/
def State.peek (s : State) (a : Nat) : Byte := Memory.read s.cfg s.mem a

/-- The extent `addr .. addr+n-1` is inside memory, in unbounded arithmetic (R203, R205(b)). -/
def State.inBounds (s : State) (addr n : Nat) : Bool := decide (addr + n ≤ s.cfg.capacity)

/-- `MemRead(addr, n)` (R203, R213): the bytes, or `none` where it raises `MemoryOutOfBounds`. -/
def State.memRead (s : State) (addr n : Nat) : Option (List Byte) :=
  if s.inBounds addr n then some (Memory.readBytes s.cfg s.mem addr n) else none

/-- `MemWrite(addr, n, v)` with the value as its bytes (R204): the state after it, or `none` where it
raises `MemoryOutOfBounds`, the whole extent being checked before any byte is written (R205(a)). -/
def State.memWrite (s : State) (addr : Nat) (bytes : List Byte) : Option State :=
  if s.inBounds addr bytes.length then
    some { s with mem := Memory.writeBytes s.cfg s.mem addr bytes }
  else none

/-! ### Registers (spec/10_state.md) -/

/-- Read a general register (R101). -/
def State.getV (s : State) (x : Reg) : Byte := s.V[x]

/-- Write a general register (R101). -/
def State.setV (s : State) (x : Reg) (b : Byte) : State := { s with V := s.V.set x b }

/-- Write I (R106). -/
def State.setI (s : State) (v : Word) : State := { s with I := v }

/-- Write pc (R109, R110). -/
def State.setPc (s : State) (v : Word) : State := { s with pc := v }

/-- Write DT (R113). -/
def State.setDT (s : State) (v : Word) : State := { s with DT := v }

/-- Write ST (R113). -/
def State.setST (s : State) (v : Word) : State := { s with ST := v }

/-- Replace the stack (R115). -/
def State.setStack (s : State) (st : List Word) : State := { s with stack := st }

/-- Write `waitKey` (R118). -/
def State.setWaitKey (s : State) (k : Option Key) : State := { s with waitKey := k }

/-- Replace the display grid (R140). -/
def State.setFb (s : State) (g : Grid) : State := { s with fb := g }

/-- Registers V0 to VX in order (R215, R216). -/
def regsThrough (x : Reg) : List Reg := (List.finRange 16).take (x.val + 1)

/-- Write a list of registers, the first pair first (R216). -/
def State.setRegs (s : State) : List (Reg × Byte) → State
  | [] => s
  | (r, b) :: rest => (s.setV r b).setRegs rest

/-- Write the result to VX, then the flag to VF: the order of 8XY1 to 8XY5 and 8XY7 (R408(b), (c)). -/
def State.setResultThenFlag (s : State) (x : Reg) (result flag : Byte) : State :=
  (s.setV x result).setV VF flag

/-- Write the flag to VF, then the result to VX: the order of 8XY6 and 8XYE (R408(b), (c)). -/
def State.setFlagThenResult (s : State) (x : Reg) (flag result : Byte) : State :=
  (s.setV VF flag).setV x result

/-! ### pc and the stack -/

/-- `advancePC()`: pc plus 2, modulo 2^16 (R109, R110, R402). -/
def State.advancePc (s : State) : State := s.setPc (s.pc + 2)

/-- `retreatPC()`: pc minus 2, modulo 2^16 (R109, R110, R560). -/
def State.retreatPc (s : State) : State := s.setPc (s.pc - 2)

/-- Skip the next instruction when the condition holds (spec/41_flow.md R438). -/
def State.skipIf (s : State) (cond : Bool) : State := if cond then s.advancePc else s

/-- `push(v)` appends (R13); `none` where the stack already holds `STACK_DEPTH` entries (R116, D12). -/
def State.push (s : State) (v : Word) : Option State :=
  if s.stack.length < s.cfg.stackDepth then some (s.setStack (s.stack ++ [v])) else none

/-- `pop()` removes and returns the last value (R13); `none` where the stack is empty (R116). -/
def State.pop (s : State) : Option (Word × State) :=
  match s.stack.getLast? with
  | some v => some (v, s.setStack s.stack.dropLast)
  | none => none

/-! ### Fetch (spec/40_dispatch.md R400 to R402) -/

/-- The word at an address, big-endian (R208, R217). -/
def State.wordAt (s : State) (a : Nat) : Word := wordOfBytes (s.peek a) (s.peek (a + 1))

/-- `fetch(pc)` (R217, R401): `none` where `pc + 1 >= CAPACITY`, with no truncation. -/
def State.fetch (s : State) : Option Word :=
  if s.pc.toNat + 1 < s.cfg.capacity then some (s.wordAt s.pc.toNat) else none

/-- The address `p` of the instruction whose body is running: pc already holds `trunc_16(p + 2)`
(spec/00_scope.md R14). -/
def State.currentAddr (s : State) : Word := s.pc - 2

/-- The word `w` of the instruction whose body is running, as memory holds it. No body writes memory
before its check, so it is the word that was fetched (R405; log entry 5). -/
def State.currentWord (s : State) : Word := s.wordAt s.currentAddr.toNat

/-! ### Fatal errors (spec/60_exceptions.md) -/

/-- The spec's code of a cause (R604, D28). -/
def Cause.code : Cause → Nat
  | .fetchOutOfBounds => 1
  | .memoryOutOfBounds => 2
  | .stackUnderflow => 3
  | .stackOverflow => 4
  | .keyOutOfRange => 5
  | .digitOutOfRange => 6

/-- `status <- Halted(cause, p, w)`, everything else as it is (R601, R602). -/
def State.halt (s : State) (cause : Cause) (p : Word) (w : Option Word) : State :=
  { s with status := .halted cause p w }

/-- `raise Fatal(cause)` in an instruction's body: the block halts and records the instruction's
address and word. pc keeps `p + 2` (R601, R602, R405). There is no return from it (R607). -/
def State.raiseFatal (s : State) (cause : Cause) : State :=
  s.halt cause s.currentAddr (some s.currentWord)

/-- A failed fetch: the block halts with no word recorded and pc still `p` (R603). -/
def State.raiseFetchFatal (s : State) : State := s.halt .fetchOutOfBounds s.pc none

/-! ### The other ports -/

/-- `KeyPressed(k)` (R141, R549). -/
def State.keyPressed (s : State) (k : Key) : Bool := s.keys[k]

/-- The lowest-numbered key held, if any is (R560, D21). -/
def State.lowestHeld (s : State) : Option Key := (List.finRange 16).find? s.keyPressed

/-- `RandomByte()`: the free value of this call (R143). -/
def State.randomByte (s : State) : Byte := Config.randomByte s.draws

/-- One call of the random port has been made (R143). -/
def State.countDraw (s : State) : State := { s with draws := s.draws + 1 }

/-- Emit `UnknownOpcode(p, w)` on the report port (R144, R610). -/
def State.report (s : State) (p w : Word) : State := { s with reports := s.reports ++ [⟨p, w⟩] }

end Sys2Proof.Machine
end

