-- ==== Sys2Proof/Machine/Flags.lean ====
section
/-! DEFINITION. The values written to VF (spec/10_state.md R104, spec/42_alu.md R449). -/

namespace Sys2Proof.Machine

/-- A flag as the byte VF gets: 0x01 or 0x00. -/
def flagByte (b : Bool) : Byte := if b then 0x01 else 0x00

/-- The carry of 8XY4: 1 iff the unbounded sum is above 255 (R463). -/
def carryFlag (a b : Byte) : Byte := flagByte (decide (a.toNat + b.toNat > 255))

/-- The no-borrow of 8XY5 and 8XY7: 1 iff the minuend is at least the subtrahend (R466, R472). -/
def noBorrowFlag (minuend subtrahend : Byte) : Byte :=
  flagByte (decide (minuend.toNat ≥ subtrahend.toNat))

/-- The bit 8XY6 shifts out: bit 0 of the source (R469). -/
def shiftRightFlag (src : Byte) : Byte := flagByte (src.getLsbD 0)

/-- The bit 8XYE shifts out: bit 7 of the source (R475). -/
def shiftLeftFlag (src : Byte) : Byte := flagByte (src.getLsbD 7)

end Sys2Proof.Machine
end

