-- ==== Sys2Proof/Machine/Operands.lean ====
section
/-! DEFINITION. The operand forms beyond a plain register or constant, and the addresses computed from
them (spec/30_encoding.md R303). Nothing is sign-extended, scaled or shifted. -/

namespace Sys2Proof.Machine

/-- `zext_16(NNN)` (R303). -/
def addrOperand (nnn : BitVec 12) : Word := nnn.setWidth 16

/-- The source of 8XY6 and 8XYE: VY when `LEGACY_SHIFT`, otherwise VX (spec/42_alu.md R469, R475). -/
def State.shiftSource (s : State) (x y : Reg) : Byte :=
  if s.cfg.legacyShift then s.getV y else s.getV x

/-- The register of BNNN in modern mode: the top nibble of NNN (spec/41_flow.md R440). -/
def offsetReg (nnn : BitVec 12) : Reg := (nnn.extractLsb' 8 4).toFin

/-- The offset of BNNN: V0 when `LEGACY_JUMP_OFFSET`, otherwise VX (R440). -/
def State.jumpOffset (s : State) (nnn : BitVec 12) : Byte :=
  if s.cfg.legacyJumpOffset then s.getV 0 else s.getV (offsetReg nnn)

/-- VX as a hex key or a hex digit; `none` when VX is above 15 (spec/44_display_input.md R554,
spec/43_index_memory.md R511). -/
def State.hexOperand (s : State) (x : Reg) : Option (Fin 16) :=
  if h : (s.getV x).toNat < 16 then some ⟨(s.getV x).toNat, h⟩ else none

/-- `fontGlyphAddr(d)` = `FONT_START + 5*d` (spec/20_memory.md R212). -/
def glyphAddr (d : Fin 16) : Word := BitVec.ofNat 16 (fontStart + glyphBytes * d.val)

/-- A key's code as a byte (R560). -/
def keyCode (k : Key) : Byte := BitVec.ofNat 8 k.val

/-- A timer value with integer part `b` and fraction zero: `b ‖ 0x00` (spec/10_state.md R113). -/
def timerOf (b : Byte) : Word := b.setWidth 16 <<< 8

/-- The integer part of a timer value, `T[15:8]` (spec/45_timers.md R582). -/
def timerInteger (t : Word) : Byte := t.extractLsb' 8 8

/-- The three decimal digits of a byte, hundreds first (spec/20_memory.md R214). -/
def bcdDigits (v : Byte) : List Byte := [v / 100, v / 10 % 10, v % 10]

end Sys2Proof.Machine
end

