-- ==== Sys2Proof/Machine/Alu.lean ====
section
/-! DEFINITION. Register loads, arithmetic, logic, shifts and random: spec/42_alu.md. Every value is
computed from the operands as they stood at entry (spec/40_dispatch.md R408(a)). -/

namespace Sys2Proof.Machine

/-- 6XNN (R450). -/
def execLdByte (x : Reg) (nn : Byte) (s : State) : Host.Outcome State Fault Refusal :=
  .next (s.setV x nn)

/-- 7XNN (R452): wraps; writes no flag. -/
def execAddByte (x : Reg) (nn : Byte) (s : State) : Host.Outcome State Fault Refusal :=
  .next (s.setV x (s.getV x + nn))

/-- 8XY0 (R455). -/
def execLdReg (x y : Reg) (s : State) : Host.Outcome State Fault Refusal :=
  .next (s.setV x (s.getV y))

/-- 8XY1 (R457): VF is cleared after VX is written. -/
def execOrReg (x y : Reg) (s : State) : Host.Outcome State Fault Refusal :=
  .next (s.setResultThenFlag x (s.getV x ||| s.getV y) 0x00)

/-- 8XY2 (R459): VF is cleared after VX is written. -/
def execAndReg (x y : Reg) (s : State) : Host.Outcome State Fault Refusal :=
  .next (s.setResultThenFlag x (s.getV x &&& s.getV y) 0x00)

/-- 8XY3 (R461): VF is cleared after VX is written. -/
def execXorReg (x y : Reg) (s : State) : Host.Outcome State Fault Refusal :=
  .next (s.setResultThenFlag x (s.getV x ^^^ s.getV y) 0x00)

/-- 8XY4 (R463). -/
def execAddReg (x y : Reg) (s : State) : Host.Outcome State Fault Refusal :=
  .next (s.setResultThenFlag x (s.getV x + s.getV y) (carryFlag (s.getV x) (s.getV y)))

/-- 8XY5 (R466): VX - VY. -/
def execSubReg (x y : Reg) (s : State) : Host.Outcome State Fault Refusal :=
  .next (s.setResultThenFlag x (s.getV x - s.getV y) (noBorrowFlag (s.getV x) (s.getV y)))

/-- 8XY6 (R469): the flag is written first, the result last. -/
def execShr (x y : Reg) (s : State) : Host.Outcome State Fault Refusal :=
  .next (s.setFlagThenResult x (shiftRightFlag (s.shiftSource x y)) (s.shiftSource x y >>> 1))

/-- 8XY7 (R472): VY - VX. -/
def execSubnReg (x y : Reg) (s : State) : Host.Outcome State Fault Refusal :=
  .next (s.setResultThenFlag x (s.getV y - s.getV x) (noBorrowFlag (s.getV y) (s.getV x)))

/-- 8XYE (R475): the flag is written first, the result last. -/
def execShl (x y : Reg) (s : State) : Host.Outcome State Fault Refusal :=
  .next (s.setFlagThenResult x (shiftLeftFlag (s.shiftSource x y)) (s.shiftSource x y <<< 1))

/-- CXNN (R480) with the byte `r` that the random port answers: one call is counted whatever NN is. -/
def rndWith (r : Byte) (x : Reg) (nn : Byte) (s : State) : State :=
  s.countDraw.setV x (r &&& nn)

/-- CXNN (R480): `r` is the free value of this call. -/
def execRnd (x : Reg) (nn : Byte) (s : State) : Host.Outcome State Fault Refusal :=
  .next (rndWith s.randomByte x nn s)

end Sys2Proof.Machine
end

