-- ==== Sys2Proof/Machine/Display.lean ====
section
/-! DEFINITION. The display port's contract (spec/44_display_input.md R541 to R545). The grid is the
list of its lit cells in raster order. -/

namespace Sys2Proof.Machine

/-- Raster order: by row, then by column. -/
abbrev Pixel.before (p q : Pixel) : Prop := p.row < q.row ∨ (p.row = q.row ∧ p.col < q.col)

/-- The canonical form of a grid: raster order, no cell twice, every cell on the display (R541). -/
abbrev Grid.wf (cfg : Config) (g : Grid) : Prop :=
  g.Pairwise Pixel.before ∧ ∀ p ∈ g, p.col < cfg.displayW ∧ p.row < cfg.displayH

/-- `fb[c][r] = 1` (R541). -/
def Grid.lit (g : Grid) (p : Pixel) : Bool := decide (p ∈ g)

/-- `fb[c][r] <- fb[c][r] XOR 1` (R543): unlist the cell if it is listed, else list it at its place. -/
def Grid.toggle (p : Pixel) : Grid → Grid
  | [] => [p]
  | q :: rest =>
    if q = p then rest
    else if p.before q then p :: q :: rest
    else q :: Grid.toggle p rest

/-- Draw one pixel of a sprite: dropped past the right or bottom edge, otherwise toggled, and a
collision when the cell was lit (R543, R545). -/
def drawPixel (cfg : Config) (gc : Grid × Bool) (p : Pixel) : Grid × Bool :=
  if p.col < cfg.displayW ∧ p.row < cfg.displayH then
    (gc.1.toggle p, gc.2 || gc.1.lit p)
  else gc

/-- The column offsets of a sprite row whose bit is set, left to right: bit 7 is the leftmost (R544). -/
def spriteColumns (b : Byte) : List Nat := (List.range 8).filter (fun k => b.getLsbD (7 - k))

/-- Draw one sprite row at screen row `row` (R543). -/
def drawRow (cfg : Config) (x0 row : Nat) (b : Byte) (gc : Grid × Bool) : Grid × Bool :=
  (spriteColumns b).foldl (fun acc k => drawPixel cfg acc ⟨x0 + k, row⟩) gc

/-- Draw sprite rows from screen row `row` down (R543). -/
def drawRows (cfg : Config) (x0 : Nat) : Nat → List Byte → Grid × Bool → Grid × Bool
  | _, [], gc => gc
  | row, b :: bs, gc => drawRows cfg x0 (row + 1) bs (drawRow cfg x0 row b gc)

/-- `DrawSprite(bytes, x, y)`: the grid after it and whether a lit cell was cleared (R543). The start
is reduced modulo the display size; the pixels are clipped. -/
def drawSprite (cfg : Config) (g : Grid) (bytes : List Byte) (x y : Byte) : Grid × Bool :=
  drawRows cfg (x.toNat % cfg.displayW) (y.toNat % cfg.displayH) bytes (g, false)

/-- `ClearScreen()`: every cell off (R542). -/
def clearScreen : Grid := []

end Sys2Proof.Machine
end

