-- ==== Sys2Proof/Machine/DisplayInput.lean ====
section
/-! DEFINITION. Display and key-input instructions: spec/44_display_input.md. -/

namespace Sys2Proof.Machine

/-- 00E0 (R540). -/
def execCls (s : State) : Host.Outcome State Fault Refusal := .next (s.setFb clearScreen)

/-- DXYN (R546): the coordinates are read before VF is written; nothing is drawn when the sprite's
bytes are out of bounds. -/
def execDrw (x y : Reg) (n : BitVec 4) (s : State) : Host.Outcome State Fault Refusal :=
  match s.memRead s.I.toNat n.toNat with
  | none => .next (s.raiseFatal .memoryOutOfBounds)
  | some bytes =>
    let drawn := drawSprite s.cfg s.fb bytes (s.getV x) (s.getV y)
    .next ((s.setFb drawn.1).setV VF (flagByte drawn.2))

/-- EX9E (R550, R554): skip when key VX is pressed. -/
def execSkp (x : Reg) (s : State) : Host.Outcome State Fault Refusal :=
  match s.hexOperand x with
  | none => .next (s.raiseFatal .keyOutOfRange)
  | some k => .next (s.skipIf (s.keyPressed k))

/-- EXA1 (R552, R554): skip when key VX is not pressed. -/
def execSknp (x : Reg) (s : State) : Host.Outcome State Fault Refusal :=
  match s.hexOperand x with
  | none => .next (s.raiseFatal .keyOutOfRange)
  | some k => .next (s.skipIf (!s.keyPressed k))

/-- FX0A (R560). Phase 1 looks for a press and replays; phase 2 replays while the recorded key is held
and resolves when it is released. -/
def execLdKey (x : Reg) (s : State) : Host.Outcome State Fault Refusal :=
  match s.waitKey with
  | none => .next (s.setWaitKey s.lowestHeld).retreatPc
  | some k =>
    if s.keyPressed k then .next s.retreatPc
    else .next ((s.setV x (keyCode k)).setWaitKey none)

end Sys2Proof.Machine
end

