-- ==== Sys2Proof/Machine/Flow.lean ====
section
/-! DEFINITION. Control transfer: spec/41_flow.md. Each body runs with pc already at `p + 2`
(spec/40_dispatch.md R402). -/

namespace Sys2Proof.Machine

/-- 00EE (R420): `pc <- pop()`; `StackUnderflow` when the stack is empty. -/
def execRet (s : State) : Host.Outcome State Fault Refusal :=
  match s.pop with
  | none => .next (s.raiseFatal .stackUnderflow)
  | some (target, t) => .next (t.setPc target)

/-- 1NNN (R423): `pc <- zext_16(NNN)`. -/
def execJp (nnn : BitVec 12) (s : State) : Host.Outcome State Fault Refusal :=
  .next (s.setPc (addrOperand nnn))

/-- 2NNN (R425): `push(pc)`, then `pc <- zext_16(NNN)`; `StackOverflow` at the bound. -/
def execCall (nnn : BitVec 12) (s : State) : Host.Outcome State Fault Refusal :=
  match s.push s.pc with
  | none => .next (s.raiseFatal .stackOverflow)
  | some t => .next (t.setPc (addrOperand nnn))

/-- 3XNN (R430): skip when `VX = NN`. -/
def execSeByte (x : Reg) (nn : Byte) (s : State) : Host.Outcome State Fault Refusal :=
  .next (s.skipIf (s.getV x == nn))

/-- 4XNN (R432): skip when `VX != NN`. -/
def execSneByte (x : Reg) (nn : Byte) (s : State) : Host.Outcome State Fault Refusal :=
  .next (s.skipIf (s.getV x != nn))

/-- 5XY0 (R434): skip when `VX = VY`. -/
def execSeReg (x y : Reg) (s : State) : Host.Outcome State Fault Refusal :=
  .next (s.skipIf (s.getV x == s.getV y))

/-- 9XY0 (R436): skip when `VX != VY`. -/
def execSneReg (x y : Reg) (s : State) : Host.Outcome State Fault Refusal :=
  .next (s.skipIf (s.getV x != s.getV y))

/-- BNNN (R440): `pc <- trunc_16(NNN + offset)`, not reduced to 12 bits. -/
def execJpOffset (nnn : BitVec 12) (s : State) : Host.Outcome State Fault Refusal :=
  .next (s.setPc (addrOperand nnn + (s.jumpOffset nnn).setWidth 16))

end Sys2Proof.Machine
end

