-- ==== Sys2Proof/Machine/IndexMemory.lean ====
section
/-! DEFINITION. Setting I, and moving data through it: spec/43_index_memory.md. No instruction here
changes I beside ANNN, FX1E and FX29 (R499, R525, R530). -/

namespace Sys2Proof.Machine

/-- ANNN (R500). -/
def execLdI (nnn : BitVec 12) (s : State) : Host.Outcome State Fault Refusal :=
  .next (s.setI (addrOperand nnn))

/-- FX1E (R503): wraps modulo 2^16; writes no flag. -/
def execAddI (x : Reg) (s : State) : Host.Outcome State Fault Refusal :=
  .next (s.setI (s.I + (s.getV x).setWidth 16))

/-- FX29 (R508, R511): `DigitOutOfRange` when VX is above 15. -/
def execLdGlyph (x : Reg) (s : State) : Host.Outcome State Fault Refusal :=
  match s.hexOperand x with
  | none => .next (s.raiseFatal .digitOutOfRange)
  | some d => .next (s.setI (glyphAddr d))

/-- FX33 (R515): the three digits of VX at I. -/
def execLdBcd (x : Reg) (s : State) : Host.Outcome State Fault Refusal :=
  match s.memWrite s.I.toNat (bcdDigits (s.getV x)) with
  | none => .next (s.raiseFatal .memoryOutOfBounds)
  | some t => .next t

/-- FX55 (R520): V0..VX at I. -/
def execStoreRegs (x : Reg) (s : State) : Host.Outcome State Fault Refusal :=
  match s.memWrite s.I.toNat ((regsThrough x).map s.getV) with
  | none => .next (s.raiseFatal .memoryOutOfBounds)
  | some t => .next t

/-- FX65 (R528): V0..VX from memory at I. -/
def execLoadRegs (x : Reg) (s : State) : Host.Outcome State Fault Refusal :=
  match s.memRead s.I.toNat (x.val + 1) with
  | none => .next (s.raiseFatal .memoryOutOfBounds)
  | some bytes => .next (s.setRegs ((regsThrough x).zip bytes))

end Sys2Proof.Machine
end

