-- ==== Sys2Proof/Machine/Timers.lean ====
section
/-! DEFINITION. The timer instructions and the countdown: spec/45_timers.md. -/

namespace Sys2Proof.Machine

/-- FX07 (R582): the integer part of DT. -/
def execLdFromDT (x : Reg) (s : State) : Host.Outcome State Fault Refusal :=
  .next (s.setV x (timerInteger s.DT))

/-- FX15 (R585). -/
def execLdDT (x : Reg) (s : State) : Host.Outcome State Fault Refusal :=
  .next (s.setDT (timerOf (s.getV x)))

/-- FX18 (R587). -/
def execLdST (x : Reg) (s : State) : Host.Outcome State Fault Refusal :=
  .next (s.setST (timerOf (s.getV x)))

/-- A timer lowered by `dec`, stopping at zero (R580). -/
def lowered (timer dec : Word) : Word := if timer ≥ dec then timer - dec else 0x0000

/-- `decay(dec)` (R580): both timers fall; nothing happens on a halted block. -/
def State.decay (s : State) (dec : Word) : State :=
  match s.status with
  | .halted _ _ _ => s
  | .running => (s.setDT (lowered s.DT dec)).setST (lowered s.ST dec)

/-- The sound output `soundActive = (ST != 0)` (spec/10_state.md R142, D23). -/
def State.soundActive (s : State) : Bool := s.ST != 0

end Sys2Proof.Machine
end

