-- ==== Sys2Proof/Machine/Unknown.lean ====
section
/-! DEFINITION. The unknown-opcode fallback: spec/40_dispatch.md R406. -/

namespace Sys2Proof.Machine

/-- UNKNOWN (R406, R610): the word is reported with its address, and nothing else changes. -/
def execUnknown (w : Word) (s : State) : Host.Outcome State Fault Refusal :=
  .next (s.report s.currentAddr w)

end Sys2Proof.Machine
end

