-- ==== Sys2Proof/Machine/Step.lean ====
section
/-! DEFINITION. One fetch-decode-execute: spec/40_dispatch.md R400 to R407. -/

namespace Sys2Proof.Machine

/-- `step()` (R400). A halted block does nothing more: the model stops with the fault that names the
halt (R407, R602; log entry 2). A failed fetch halts the block (R401, R603). Otherwise pc advances and
the decoded instruction runs (R402, R404). -/
def step (s : State) : Host.Outcome State Fault Refusal :=
  match s.status with
  | .halted cause p w => .fault (.halted cause p w)
  | .running =>
    match s.fetch with
    | none => .next s.raiseFetchFatal
    | some w => exec (decode s.cfg.strictDecode w) s.advancePc

/-- The state with a table word stored where `step` fetches next, so that the very next step runs it:
at pc, big-endian (R208, R400). Where nothing can be fetched (pc outside memory, or a halted block) it
also sets what the fetch needs: pc to address 0, which every admitted `CAPACITY` has, and the status
to running (log entry 8). -/
def State.withFetchWord (s : State) (nbits w : Nat) : State :=
  let word := tableWord nbits w
  let p := if s.pc.toNat + 1 < s.cfg.capacity then s.pc else 0
  { s with
    pc := p
    status := .running
    mem := Memory.writeBytes s.cfg s.mem p.toNat [byteOf word 1, byteOf word 0] }

end Sys2Proof.Machine
end

