-- ==== Sys2Proof/Machine/HostOps.lean ====
section
/-! DEFINITION. What the outside does to the block: `load`, `step`, `decay` and the key input
(spec/10_state.md R141, R146), the host as a schedule (spec/70_reset_and_hazards.md R725), and the
reference host, the cycle driver (R720 to R724). -/

namespace Sys2Proof.Machine

/-- Why `load` fails (spec/20_memory.md R210). -/
inductive LoadError where
  /-- The program is longer than `CAPACITY - 0x200`; no state is created (R609). -/
  | outOfSpace
  deriving DecidableEq, Repr

/-- `load(rom)` on a block built with `cfg`: the block's whole reset (R210, R700, R701). -/
def load (cfg : Config) (rom : List Byte) : Except LoadError State :=
  if rom.length > cfg.capacity - romStart then .error .outOfSpace
  else .ok { State.resetWith cfg with mem := Memory.writeBytes cfg [] romStart rom }

/-- One thing the host does between two moments of the block: it calls `step()` or `decay(dec)`
(R725), or the levels of the keys change, which happens only between steps (R141). -/
inductive HostCall where
  | step
  | decay (dec : Word)
  | pollInput (keys : Vector Bool 16)
  deriving DecidableEq, Repr

/-- `step()` as an operation on the block: nothing happens on a halted block (R400, R407). -/
def State.stepCall (s : State) : State :=
  match step s with
  | .next t => t
  | .fault _ => s
  | .refused _ => s

/-- The key levels after the host has pumped its input (R141, R724). -/
def State.pollInput (s : State) (keys : Vector Bool 16) : State := { s with keys := keys }

/-- The block after one host call. -/
def State.afterCall (s : State) : HostCall → State
  | .step => s.stepCall
  | .decay dec => s.decay dec
  | .pollInput keys => s.pollInput keys

/-- The block after a finite schedule of host calls (R725). -/
def State.afterCalls (s : State) (calls : List HostCall) : State := calls.foldl State.afterCall s

/-- An infinite schedule of host calls (R725): the call with number `n`, counting from 0. -/
abbrev InfiniteSchedule := Nat → HostCall

/-- The block after the first calls of an infinite schedule (R725): with `n` running through every
number, these are all the states along it. -/
def State.afterFirst (s : State) (schedule : InfiniteSchedule) : Nat → State
  | 0 => s
  | n + 1 => (s.afterFirst schedule n).afterCall (schedule n)

/-- The instruction period of the reference host, in seconds (spec/00_scope.md R11, R720). -/
def instructionPeriod : ℚ := 1 / 500

/-- The `dec` that the host computes from elapsed seconds (spec/45_timers.md R581). -/
def decayAmount (dt : ℚ) : Word := BitVec.ofNat 16 (min 0xFFFF ⌊dt * 60 * 256⌋₊)

/-- The reference host with the block it drives: `acc` is the accumulated host time (R721). -/
structure Driver where
  block : State
  acc : ℚ

/-- The driver at its start: the accumulator is 0 (R721, D26). -/
def Driver.start (s : State) : Driver := ⟨s, 0⟩

/-- One tick of the reference host (R720, R722): the timers always decay first; then at most one
instruction runs, after which the input is polled. `keys` are the levels that poll would find. -/
def Driver.tick (d : Driver) (dt : ℚ) (keys : Vector Bool 16) : Driver :=
  let decayed := d.block.decay (decayAmount dt)
  let acc := d.acc + dt
  if acc ≥ instructionPeriod then
    ⟨decayed.stepCall.pollInput keys, acc - instructionPeriod⟩
  else ⟨decayed, acc⟩

/-- The driver after a list of ticks, each with its elapsed time and the levels its poll would find. -/
def Driver.afterTicks (d : Driver) : List (ℚ × Vector Bool 16) → Driver
  | [] => d
  | (dt, keys) :: ticks => (d.tick dt keys).afterTicks ticks

/-- The host calls that a list of ticks makes: the reference host as a schedule (R720, R725). -/
def Driver.callsOf (d : Driver) : List (ℚ × Vector Bool 16) → List HostCall
  | [] => []
  | (dt, keys) :: ticks =>
    .decay (decayAmount dt) ::
      ((if d.acc + dt ≥ instructionPeriod then [.step, .pollInput keys] else []) ++
        (d.tick dt keys).callsOf ticks)

end Sys2Proof.Machine
end

