-- ==== Sys2Proof/Safety.lean ====
section
/-! DEFINITION. The words claims are stated in: a legal state, a block that still runs, what a
transition changes and leaves unchanged, how an instruction halts the block, and three tables of the
spec as functions of the instruction (what it writes, when it is fatal, which cells a sprite covers). -/

namespace Sys2Proof.Machine

/-! ### Legal states -/

/-- A halt records no word exactly when the fetch failed (spec/10_state.md R119). -/
def Status.wf : Status → Prop
  | .running => True
  | .halted cause _ w => w = none ↔ cause = .fetchOutOfBounds

/-- A legal state: admitted parameters, memory and grid in canonical form and inside their spaces, the
stack within `STACK_DEPTH` (R100, R115, R119, R200, R541). -/
structure State.Inv (s : State) : Prop where
  cfg : s.cfg.wf = true
  mem : Memory.wf s.cfg s.mem
  space : Memory.inSpace s.cfg s.mem
  stack : s.stack.length ≤ s.cfg.stackDepth
  fb : Grid.wf s.cfg s.fb
  status : s.status.wf

/-- The block has not met a fatal error (R119). -/
abbrev State.Running (s : State) : Prop := s.status = .running

/-- The next step fetches a word: the block runs and both bytes at pc are in memory (R401, R407). -/
abbrev State.CanFetch (s : State) : Prop := s.Running ∧ s.pc.toNat + 1 < s.cfg.capacity

/-! ### Frames -/

/-- The parts of the state, memory byte by byte and register by register. -/
inductive Part where
  | V (r : Reg)
  | I
  | pc
  | DT
  | ST
  | stack
  | byte (a : Nat)
  | waitKey
  | status
  | fb
  | keys
  | draws
  | reports
  | cfg
  deriving DecidableEq, Repr

/-- The part reads the same in both states. -/
def Part.Same (s t : State) : Part → Prop
  | .V r => t.getV r = s.getV r
  | .I => t.I = s.I
  | .pc => t.pc = s.pc
  | .DT => t.DT = s.DT
  | .ST => t.ST = s.ST
  | .stack => t.stack = s.stack
  | .byte a => t.peek a = s.peek a
  | .waitKey => t.waitKey = s.waitKey
  | .status => t.status = s.status
  | .fb => t.fb = s.fb
  | .keys => t.keys = s.keys
  | .draws => t.draws = s.draws
  | .reports => t.reports = s.reports
  | .cfg => t.cfg = s.cfg

/-- From `s` to `t` nothing changes but the parts in `may`: every other part, each register and each
byte of memory among them, reads as before. -/
def OnlyChanges (may : Part → Prop) (s t : State) : Prop := ∀ p, ¬ may p → p.Same s t

/-- `w` is the word that memory holds at `a`, big-endian (R208). -/
def State.WordAt (s : State) (a : Nat) (w : Word) : Prop :=
  w.toNat = 256 * (s.peek a).toNat + (s.peek (a + 1)).toNat

/-- Running the instruction's body halts the block with this cause: it records the address and the
word of the instruction (pc already holds `p + 2`), and changes nothing but the status (R601, R602). -/
def HaltsWith (cause : Cause) (i : Instr) (s : State) : Prop :=
  ∃ t w, exec i s = .next t ∧ s.WordAt (s.pc - 2).toNat w ∧
    t.status = .halted cause (s.pc - 2) (some w) ∧ OnlyChanges (· ∈ [Part.status]) s t

/-! ### Schedules (spec/70_reset_and_hazards.md R725) -/

/-- The call is a `decay`. -/
def HostCall.isDecay : HostCall → Bool
  | .decay _ => true
  | .step => false
  | .pollInput _ => false

/-- Along the schedule, no step of the running block runs FX07, the one instruction that reads a
timer (spec/10_state.md R113). -/
def State.ReadsNoTimer (s : State) (calls : List HostCall) : Prop :=
  ∀ before after, calls = before ++ .step :: after → (s.afterCalls before).Running →
    ∀ w, (s.afterCalls before).fetch = some w →
      ∀ x, decode (s.afterCalls before).cfg.strictDecode w ≠ .ldFromDT x

/-- The states differ in DT and ST at most. -/
def State.SameButTimers (s t : State) : Prop := (s.setDT t.DT).setST t.ST = t

/-! ### Operands of a word, by arithmetic (spec/00_scope.md R12, R15) -/

/-- `w[11:8]` as a register number. -/
def regX (w : Word) : Reg := Fin.ofNat 16 (w.toNat / 256)

/-- `w[7:4]` as a register number. -/
def regY (w : Word) : Reg := Fin.ofNat 16 (w.toNat / 16)

/-- `w[7:0]`. -/
def low8 (w : Word) : Byte := BitVec.ofNat 8 w.toNat

/-- `w[3:0]`. -/
def low4 (w : Word) : BitVec 4 := BitVec.ofNat 4 w.toNat

/-- `w[11:0]`. -/
def low12 (w : Word) : BitVec 12 := BitVec.ofNat 12 w.toNat

/-! ### Tables -/

/-- What an instruction may write (the instruction rules of spec/41_flow.md to spec/45_timers.md and
R406; the table of spec/10_state.md R102 for the general registers). -/
def mayWrite (s : State) : Instr → Part → Prop
  | .cls => (· ∈ [Part.fb])
  | .ret => (· ∈ [Part.pc, .stack, .status])
  | .jp _ => (· ∈ [Part.pc])
  | .call _ => (· ∈ [Part.pc, .stack, .status])
  | .seByte _ _ => (· ∈ [Part.pc])
  | .sneByte _ _ => (· ∈ [Part.pc])
  | .seReg _ _ => (· ∈ [Part.pc])
  | .ldByte x _ => (· ∈ [Part.V x])
  | .addByte x _ => (· ∈ [Part.V x])
  | .ldReg x _ => (· ∈ [Part.V x])
  | .orReg x _ => (· ∈ [Part.V x, .V VF])
  | .andReg x _ => (· ∈ [Part.V x, .V VF])
  | .xorReg x _ => (· ∈ [Part.V x, .V VF])
  | .addReg x _ => (· ∈ [Part.V x, .V VF])
  | .subReg x _ => (· ∈ [Part.V x, .V VF])
  | .shr x _ => (· ∈ [Part.V x, .V VF])
  | .subnReg x _ => (· ∈ [Part.V x, .V VF])
  | .shl x _ => (· ∈ [Part.V x, .V VF])
  | .sneReg _ _ => (· ∈ [Part.pc])
  | .ldI _ => (· ∈ [Part.I])
  | .jpOffset _ => (· ∈ [Part.pc])
  | .rnd x _ => (· ∈ [Part.V x, .draws])
  | .drw _ _ _ => (· ∈ [Part.fb, .V VF, .status])
  | .skp _ => (· ∈ [Part.pc, .status])
  | .sknp _ => (· ∈ [Part.pc, .status])
  | .ldFromDT x => (· ∈ [Part.V x])
  | .ldKey x => (· ∈ [Part.V x, .pc, .waitKey])
  | .ldDT _ => (· ∈ [Part.DT])
  | .ldST _ => (· ∈ [Part.ST])
  | .addI _ => (· ∈ [Part.I])
  | .ldGlyph _ => (· ∈ [Part.I, .status])
  | .ldBcd _ => fun p => p = .status ∨ ∃ k < 3, p = .byte (s.I.toNat + k)
  | .storeRegs x => fun p => p = .status ∨ ∃ k ≤ x.val, p = .byte (s.I.toNat + k)
  | .loadRegs x => fun p => p = .status ∨ ∃ r ≤ x, p = .V r
  | .unknown _ => (· ∈ [Part.reports])

/-- When the body of an instruction is fatal, and the cause (spec/60_exceptions.md R604). In a legal
state the stack never holds more than `STACK_DEPTH` entries, so `≥` is R604's "holds". -/
def fatalCauseOf (s : State) : Instr → Option Cause
  | .drw _ _ n =>
    if s.I.toNat + n.toNat > s.cfg.capacity then some .memoryOutOfBounds else none
  | .ldBcd _ => if s.I.toNat + 3 > s.cfg.capacity then some .memoryOutOfBounds else none
  | .storeRegs x =>
    if s.I.toNat + x.val + 1 > s.cfg.capacity then some .memoryOutOfBounds else none
  | .loadRegs x =>
    if s.I.toNat + x.val + 1 > s.cfg.capacity then some .memoryOutOfBounds else none
  | .ret => if s.stack = [] then some .stackUnderflow else none
  | .call _ => if s.stack.length ≥ s.cfg.stackDepth then some .stackOverflow else none
  | .skp x => if (s.getV x).toNat > 15 then some .keyOutOfRange else none
  | .sknp x => if (s.getV x).toNat > 15 then some .keyOutOfRange else none
  | .ldGlyph x => if (s.getV x).toNat > 15 then some .digitOutOfRange else none
  | .cls | .jp _ | .seByte _ _ | .sneByte _ _ | .seReg _ _ | .ldByte _ _ | .addByte _ _ => none
  | .ldReg _ _ | .orReg _ _ | .andReg _ _ | .xorReg _ _ | .addReg _ _ | .subReg _ _ => none
  | .shr _ _ | .subnReg _ _ | .shl _ _ | .sneReg _ _ | .ldI _ | .jpOffset _ | .rnd _ _ => none
  | .ldFromDT _ | .ldKey _ | .ldDT _ | .ldST _ | .addI _ | .unknown _ => none

/-- The cells whose bit a sprite has set, after the start is reduced modulo the display size and the
pixels past the right and bottom edges are dropped (spec/44_display_input.md R543 to R545): row `r` of
the sprite is `rows[r]`, and its bit 7 is the leftmost pixel. -/
def SpriteCovers (cfg : Config) (rows : List Byte) (x y : Byte) (p : Pixel) : Prop :=
  p.col < cfg.displayW ∧ p.row < cfg.displayH ∧
    ∃ r b : Nat, ∃ hr : r < rows.length, b < 8 ∧
      p.row = y.toNat % cfg.displayH + r ∧ p.col = x.toNat % cfg.displayW + b ∧
      (rows[r]).getLsbD (7 - b) = true

end Sys2Proof.Machine
end

