-- ==== Sys2Proof/Certificates/Slice0/Obligations.lean ====
section
/-! DEFINITION. The statements for the provers. Each docstring names the rules of spec/ it formalises.
The words they use (legal states, frames, halts, the operands of a word) are in Sys2Proof/Safety.lean. -/

open Sys2Proof Sys2Proof.Machine

/-! ### Load and reset -/

/-- R210, R701: `load` fails exactly when the program is too long; otherwise every component has its
reset value, the font and the program stand at their places, and every other byte is zero. The values
of V, I, DT, ST, the grid and the other bytes are the spec's decisions (D3, D6, D8, D17; log entry 11). -/
def Obligations.LoadLeavesTheResetValues : Prop :=
  ∀ (cfg : Config) (rom : List Byte), cfg.wf = true →
    (cfg.capacity - 0x200 < rom.length → load cfg rom = .error .outOfSpace) ∧
    (rom.length ≤ cfg.capacity - 0x200 → ∃ s, load cfg rom = .ok s ∧
      s.pc = 0x0200 ∧ (∀ r, s.getV r = 0x00) ∧ s.I = 0x0000 ∧ s.DT = 0x0000 ∧ s.ST = 0x0000 ∧
      s.stack = [] ∧ s.waitKey = none ∧ s.status = .running ∧ (∀ p, s.fb.lit p = false) ∧
      s.cfg = cfg ∧ (Driver.start s).acc = 0 ∧
      (∀ k : Fin 80, s.peek (0x050 + k) = cfg.font[k]) ∧
      (∀ k, ∀ hk : k < rom.length, s.peek (0x200 + k) = rom[k]) ∧
      ∀ a, (a < 0x050 ∨ (0x0A0 ≤ a ∧ a < 0x200) ∨ 0x200 + rom.length ≤ a) → s.peek a = 0x00)

/-- R701, R702: the reset state is what loading an empty program on a default block leaves; it is
legal, and its first fetch is from 0x200. That reset is such a load is the model's choice (log entry 8),
and so are the canonical forms in the invariant (log entries 4 and 7). -/
def Obligations.ResetStateIsLegalAndFetches : Prop :=
  load Config.standard [] = .ok State.reset ∧ State.reset.Inv ∧ State.reset.CanFetch ∧
    State.reset.pc = 0x0200

/-! ### Encoding -/

/-- R307 (with the views of R12 and R301): the views of a word are its hexadecimal digits, bytes and
low 12 bits; the two bytes make the word again; and `STRICT_DECODE` matters only for words that are
not canonical. -/
def Obligations.OpcodeViewsKeepEveryBit : Prop :=
  ∀ w : Word,
    (∀ pos < 4, (nibble w pos).toNat = w.toNat / 16 ^ pos % 16) ∧
    (∀ pos < 2, (byteOf w pos).toNat = w.toNat / 256 ^ pos % 256) ∧
    (addr12 w).toNat = w.toNat % 4096 ∧
    (addr12 w).toNat = (nibble w 2).toNat * 256 + (byteOf w 0).toNat ∧
    (byteOf w 1).setWidth 16 <<< 8 ||| (byteOf w 0).setWidth 16 = w ∧
    (canonical w = true → decode true w = decode false w)

/-- R304, R305, R310, R311: each row's words decode to its instruction with the operands of R15, the
ignored bits being ignored, and a word that no row matches is unknown. With `STRICT_DECODE` false.
That the bits of R305 are ignored is decision D13 (log entry 20). -/
def Obligations.DecodeFollowsTheOpcodeMap : Prop :=
  ∀ w : Word,
    (w &&& 0xF0FF = 0x00E0 → decode false w = .cls) ∧
    (w &&& 0xF0FF = 0x00EE → decode false w = .ret) ∧
    (w &&& 0xF000 = 0x1000 → decode false w = .jp (low12 w)) ∧
    (w &&& 0xF000 = 0x2000 → decode false w = .call (low12 w)) ∧
    (w &&& 0xF000 = 0x3000 → decode false w = .seByte (regX w) (low8 w)) ∧
    (w &&& 0xF000 = 0x4000 → decode false w = .sneByte (regX w) (low8 w)) ∧
    (w &&& 0xF000 = 0x5000 → decode false w = .seReg (regX w) (regY w)) ∧
    (w &&& 0xF000 = 0x6000 → decode false w = .ldByte (regX w) (low8 w)) ∧
    (w &&& 0xF000 = 0x7000 → decode false w = .addByte (regX w) (low8 w)) ∧
    (w &&& 0xF00F = 0x8000 → decode false w = .ldReg (regX w) (regY w)) ∧
    (w &&& 0xF00F = 0x8001 → decode false w = .orReg (regX w) (regY w)) ∧
    (w &&& 0xF00F = 0x8002 → decode false w = .andReg (regX w) (regY w)) ∧
    (w &&& 0xF00F = 0x8003 → decode false w = .xorReg (regX w) (regY w)) ∧
    (w &&& 0xF00F = 0x8004 → decode false w = .addReg (regX w) (regY w)) ∧
    (w &&& 0xF00F = 0x8005 → decode false w = .subReg (regX w) (regY w)) ∧
    (w &&& 0xF00F = 0x8006 → decode false w = .shr (regX w) (regY w)) ∧
    (w &&& 0xF00F = 0x8007 → decode false w = .subnReg (regX w) (regY w)) ∧
    (w &&& 0xF00F = 0x800E → decode false w = .shl (regX w) (regY w)) ∧
    (w &&& 0xF000 = 0x9000 → decode false w = .sneReg (regX w) (regY w)) ∧
    (w &&& 0xF000 = 0xA000 → decode false w = .ldI (low12 w)) ∧
    (w &&& 0xF000 = 0xB000 → decode false w = .jpOffset (low12 w)) ∧
    (w &&& 0xF000 = 0xC000 → decode false w = .rnd (regX w) (low8 w)) ∧
    (w &&& 0xF000 = 0xD000 → decode false w = .drw (regX w) (regY w) (low4 w)) ∧
    (w &&& 0xF0FF = 0xE09E → decode false w = .skp (regX w)) ∧
    (w &&& 0xF0FF = 0xE0A1 → decode false w = .sknp (regX w)) ∧
    (w &&& 0xF0FF = 0xF007 → decode false w = .ldFromDT (regX w)) ∧
    (w &&& 0xF0FF = 0xF00A → decode false w = .ldKey (regX w)) ∧
    (w &&& 0xF0FF = 0xF015 → decode false w = .ldDT (regX w)) ∧
    (w &&& 0xF0FF = 0xF018 → decode false w = .ldST (regX w)) ∧
    (w &&& 0xF0FF = 0xF01E → decode false w = .addI (regX w)) ∧
    (w &&& 0xF0FF = 0xF029 → decode false w = .ldGlyph (regX w)) ∧
    (w &&& 0xF0FF = 0xF033 → decode false w = .ldBcd (regX w)) ∧
    (w &&& 0xF0FF = 0xF055 → decode false w = .storeRegs (regX w)) ∧
    (w &&& 0xF0FF = 0xF065 → decode false w = .loadRegs (regX w)) ∧
    ((∀ r ∈ opcodeRows, w &&& r.mask ≠ r.bits) → decode false w = .unknown w)

/-- R310: no two rows of the opcode map overlap, and a word decodes to the instruction of the one row
that matches it, or to UNKNOWN when none does. -/
def Obligations.EachWordHasAtMostOneOpcodeRow : Prop :=
  ∀ w : Word,
    (opcodeRows.filter (fun r => w &&& r.mask == r.bits)).map (·.mnemonic) =
      if decode false w = .unknown w then [] else [(decode false w).mnemonic]

/-- R306: a word is canonical if it is unknown or equals the encoding of what it decodes to; the words
that are not are 0x0NE0, 0x0NEE, 0x5XYN and 0x9XYN with N not 0; with `STRICT_DECODE` they are unknown
and every other word decodes as before. R306 is decision D13 (log entry 20). -/
def Obligations.StrictDecodeMakesNonCanonicalWordsUnknown : Prop :=
  ∀ w : Word,
    (canonical w = true ↔ decode false w = .unknown w ∨ encode (decode false w) = w) ∧
    (canonical w = false ↔
      ((w &&& 0xF0FF = 0x00E0 ∨ w &&& 0xF0FF = 0x00EE) ∧ w &&& 0x0F00 ≠ 0) ∨
      ((w &&& 0xF000 = 0x5000 ∨ w &&& 0xF000 = 0x9000) ∧ w &&& 0x000F ≠ 0)) ∧
    decode true w = if canonical w then decode false w else .unknown w

/-- R302, R306, R310: under either setting of `STRICT_DECODE` every well-formed instruction, with
every operand, is what its encoding decodes to, from its word and from its two bytes. -/
def Obligations.DecodeOfEncodeIsTheInstruction : Prop :=
  ∀ (strict : Bool) (i : Instr) (rest : List Byte), WellFormed strict i = true →
    decode strict (encode i) = i ∧ decodeBytes strict (encodeBytes i ++ rest) = .ok (i, rest)

/-- Words written out from the encodings of R302 and R310, with spec/95_test_vectors.md W1 and T-E. -/
def Obligations.WordsFromTheSpecDecode : Prop :=
  decode false 0x124E = .jp 0x24E ∧ decode false 0x8AB4 = .addReg 0xA 0xB ∧
  decode false 0xDABF = .drw 0xA 0xB 0xF ∧ decode false 0xE19E = .skp 1 ∧
  decode false 0xF165 = .loadRegs 1 ∧ decode false 0xBFFF = .jpOffset 0xFFF ∧
  decode false 0x03E0 = .cls ∧ decode true 0x03E0 = .unknown 0x03E0 ∧
  decode false 0x5121 = .seReg 1 2 ∧ decode false 0x0123 = .unknown 0x0123

/-! ### The step -/

/-- R400, R402, R208: a running block whose pc addresses two bytes of memory runs the instruction
their big-endian word decodes to, on the state with pc advanced by 2 modulo 2^16 (D10, log entry 19). -/
def Obligations.StepRunsTheDecodedInstruction : Prop :=
  ∀ (s : State) (w : Word) (i : Instr), s.CanFetch → s.WordAt s.pc.toNat w →
    decode s.cfg.strictDecode w = i →
    ∃ u, step s = exec i u ∧ u.pc.toNat = (s.pc.toNat + 2) % 65536 ∧ OnlyChanges (· ∈ [Part.pc]) s u

/-- R401, R603: a fetch past memory halts the block with no word recorded and pc still `p`. That the
halting step answers a next state is the model's choice (log entry 2). -/
def Obligations.FetchPastMemoryHaltsTheBlock : Prop :=
  ∀ s : State, s.Running → s.cfg.capacity ≤ s.pc.toNat + 1 →
    ∃ t, step s = .next t ∧ t.status = .halted .fetchOutOfBounds s.pc none ∧
      OnlyChanges (· ∈ [Part.status]) s t

/-- R407, R602: a halted block answers a step with a fault and never a next state; as host calls,
`step` and `decay` leave it as it is, so along every schedule only the key input changes. D15; that the
step of a halted block is a fault is the model's reading of R602 (log entry 2). -/
def Obligations.HaltedBlockStaysFrozen : Prop :=
  ∀ (s : State) (c : Cause) (p : Word) (w : Option Word), s.status = .halted c p w →
    step s = .fault (.halted c p w) ∧ s.stepCall = s ∧ (∀ dec, s.decay dec = s) ∧
    ∀ calls, OnlyChanges (· ∈ [Part.keys]) s (s.afterCalls calls)

/-- Every step of a running block answers a next state: there is no word it stops on (R312, R406). A
step that halts the block answers one too, by the model's choice (log entry 2). -/
def Obligations.RunningBlockAlwaysAnswers : Prop :=
  ∀ s : State, s.Running → ∃ t, step s = .next t

/-- R405, R601: a step that fetched its word and ends halted has changed pc and the status only: pc is
`p + 2`, and the status records the step's own address and word. R405 and R601 are decision D15; that
the step answers a next state is the model's choice (log entry 2). -/
def Obligations.FatalStepChangesOnlyPcAndStatus : Prop :=
  ∀ (s t : State) (w : Word), s.CanFetch → s.WordAt s.pc.toNat w → step s = .next t → ¬ t.Running →
    (∃ cause, cause ≠ .fetchOutOfBounds ∧ t.status = .halted cause s.pc (some w)) ∧
    t.pc = s.pc + 2 ∧ OnlyChanges (· ∈ [Part.pc, .status]) s t

/-- R604: the codes of the causes; a failed fetch has the first; an instruction's body halts the block
exactly under its condition in the table, with the table's cause, and otherwise leaves the status. The
codes are decision D28, causes 4 to 6 decisions D12, D19 and D20 (log entry 16). That a call
is fatal also on a stack longer than `STACK_DEPTH`, which no legal state has, is the model's choice (log
entry 13). -/
def Obligations.FatalCausesFollowTheTable : Prop :=
  (Cause.fetchOutOfBounds.code = 1 ∧ Cause.memoryOutOfBounds.code = 2 ∧
    Cause.stackUnderflow.code = 3 ∧ Cause.stackOverflow.code = 4 ∧
    Cause.keyOutOfRange.code = 5 ∧ Cause.digitOutOfRange.code = 6) ∧
  (∀ s : State, s.Running → s.cfg.capacity ≤ s.pc.toNat + 1 →
    ∃ t, step s = .next t ∧ t.status = .halted .fetchOutOfBounds s.pc none) ∧
  ∀ (i : Instr) (s : State),
    (∀ cause, fatalCauseOf s i = some cause → HaltsWith cause i s) ∧
    (fatalCauseOf s i = none → ∃ t, exec i s = .next t ∧ t.status = s.status)

/-- R404 ("It writes only what its rule names"), with R102, R106, R113, R115, R118, R143, R215: every
part of the state that an instruction's rule does not name reads as before. That CXNN counts its draw
and UNKNOWN lists its report are the model's records (log entries 3 and 6). -/
def Obligations.InstructionsWriteOnlyWhatTheirRulesName : Prop :=
  ∀ (i : Instr) (s t : State), s.Inv → exec i s = .next t → OnlyChanges (mayWrite s i) s t

/-- R406, R610: a word that no row matches is reported with its address, pc advances by 2, and nothing
else changes. Also of the instruction by itself. The list of reports is the model's record of the
report port (log entry 6). -/
def Obligations.UnknownWordIsReportedAndSkipped : Prop :=
  (∀ (s : State) (w : Word), ∃ t, exec (.unknown w) s = .next t ∧
    t.reports = s.reports ++ [⟨s.pc - 2, w⟩] ∧ OnlyChanges (· ∈ [Part.reports]) s t) ∧
  ∀ (s : State) (w : Word), s.CanFetch → s.WordAt s.pc.toNat w →
    (∀ r ∈ opcodeRows, w &&& r.mask ≠ r.bits) →
    ∃ t, step s = .next t ∧ t.reports = s.reports ++ [⟨s.pc, w⟩] ∧ t.pc = s.pc + 2 ∧
      OnlyChanges (· ∈ [Part.pc, .reports]) s t

/-! ### Control transfer -/

/-- R420: 00EE pops the last value pushed into pc, and halts the block on an empty stack. What the
halt records is decision D15. -/
def Obligations.ReturnPopsTheStack : Prop :=
  ∀ s : State,
    (s.stack = [] → HaltsWith .stackUnderflow .ret s) ∧
    ∀ (below : List Word) (top : Word), s.stack = below ++ [top] →
      ∃ t, exec .ret s = .next t ∧ t.pc = top ∧ t.stack = below ∧
        OnlyChanges (· ∈ [Part.pc, .stack]) s t

/-- R423: 1NNN sets pc to the 12-bit address. -/
def Obligations.JumpSetsPc : Prop :=
  ∀ (s : State) (nnn : BitVec 12), ∃ t, exec (.jp nnn) s = .next t ∧ t.pc.toNat = nnn.toNat ∧
    OnlyChanges (· ∈ [Part.pc]) s t

/-- R423 (a jump to itself), R726: the step of a 1NNN whose NNN is its own address leaves the whole
state as it is. -/
def Obligations.JumpToItselfIsAFixedPoint : Prop :=
  ∀ (s : State) (w : Word), s.CanFetch → s.WordAt s.pc.toNat w → w.toNat = 0x1000 + s.pc.toNat →
    s.pc.toNat < 0x1000 → step s = .next s

/-- R425: 2NNN pushes the advanced pc and jumps, and halts the block when the stack is full. The
overflow is decision D12 (log entry 16). -/
def Obligations.CallPushesTheAdvancedPc : Prop :=
  ∀ (s : State) (nnn : BitVec 12),
    (s.stack.length = s.cfg.stackDepth → HaltsWith .stackOverflow (.call nnn) s) ∧
    (s.stack.length < s.cfg.stackDepth → ∃ t, exec (.call nnn) s = .next t ∧
      t.stack = s.stack ++ [s.pc] ∧ t.pc.toNat = nnn.toNat ∧
      OnlyChanges (· ∈ [Part.pc, .stack]) s t)

/-- R421: from any state that has the stack a call left, 00EE returns to the instruction after the
call, with the stack as it was before it. -/
def Obligations.ReturnGoesBackAfterTheCall : Prop :=
  ∀ (s : State) (nnn : BitVec 12), s.stack.length < s.cfg.stackDepth →
    ∃ t, exec (.call nnn) s = .next t ∧
      ∀ u : State, u.stack = t.stack →
        ∃ v, exec .ret u = .next v ∧ v.pc = s.pc ∧ v.stack = s.stack

/-- R430, R432: the skips on a constant add 2 to pc, modulo 2^16, exactly when their condition holds. -/
def Obligations.ByteSkipsAddTwoToPc : Prop :=
  ∀ (s : State) (x : Reg) (nn : Byte),
    (∃ t, exec (.seByte x nn) s = .next t ∧ OnlyChanges (· ∈ [Part.pc]) s t ∧
      t.pc.toNat = if s.getV x = nn then (s.pc.toNat + 2) % 65536 else s.pc.toNat) ∧
    (∃ t, exec (.sneByte x nn) s = .next t ∧ OnlyChanges (· ∈ [Part.pc]) s t ∧
      t.pc.toNat = if s.getV x = nn then s.pc.toNat else (s.pc.toNat + 2) % 65536)

/-- R434, R436: the skips on two registers; with X = Y the first always skips and the second never. -/
def Obligations.RegisterSkipsAddTwoToPc : Prop :=
  ∀ (s : State) (x y : Reg),
    (∃ t, exec (.seReg x y) s = .next t ∧ OnlyChanges (· ∈ [Part.pc]) s t ∧
      t.pc.toNat = if s.getV x = s.getV y then (s.pc.toNat + 2) % 65536 else s.pc.toNat) ∧
    (∃ t, exec (.sneReg x y) s = .next t ∧ OnlyChanges (· ∈ [Part.pc]) s t ∧
      t.pc.toNat = if s.getV x = s.getV y then s.pc.toNat else (s.pc.toNat + 2) % 65536)

/-- R440: BNNN adds V0, or with `LEGACY_JUMP_OFFSET` false the register named by NNN's top nibble; the
sum is kept whole (D10, log entry 19). -/
def Obligations.OffsetJumpAddsTheConfiguredRegister : Prop :=
  ∀ (s : State) (nnn : BitVec 12), ∃ t, exec (.jpOffset nnn) s = .next t ∧
    t.pc.toNat = nnn.toNat +
      (if s.cfg.legacyJumpOffset then s.getV 0 else s.getV (Fin.ofNat 16 (nnn.toNat / 256))).toNat ∧
    OnlyChanges (· ∈ [Part.pc]) s t

/-! ### Loads, arithmetic, logic, shifts, random -/

/-- R450, R455: 6XNN and 8XY0 write VX and nothing else, VF included unless it is VX. -/
def Obligations.RegisterLoadsWriteOneRegister : Prop :=
  ∀ (s : State) (x y : Reg) (nn : Byte),
    (∃ t, exec (.ldByte x nn) s = .next t ∧ t.getV x = nn ∧ OnlyChanges (· ∈ [Part.V x]) s t) ∧
    (∃ t, exec (.ldReg x y) s = .next t ∧ t.getV x = s.getV y ∧ OnlyChanges (· ∈ [Part.V x]) s t)

/-- R452: 7XNN adds modulo 256 and writes no flag. -/
def Obligations.AddByteWrapsAndSetsNoFlag : Prop :=
  ∀ (s : State) (x : Reg) (nn : Byte), ∃ t, exec (.addByte x nn) s = .next t ∧
    (t.getV x).toNat = ((s.getV x).toNat + nn.toNat) % 256 ∧ OnlyChanges (· ∈ [Part.V x]) s t

/-- R457, R459, R461: the logic operations work bit by bit on the operands as they stood, and VF ends
0, also when it is VX: the write order for X = F is decision D14 (log entry 15). -/
def Obligations.LogicOperationsClearVF : Prop :=
  ∀ (s : State) (x y : Reg),
    (∃ t, exec (.orReg x y) s = .next t ∧ t.getV VF = 0x00 ∧
      (x ≠ VF → ∀ b < 8, (t.getV x).getLsbD b = ((s.getV x).getLsbD b || (s.getV y).getLsbD b)) ∧
      OnlyChanges (· ∈ [Part.V x, .V VF]) s t) ∧
    (∃ t, exec (.andReg x y) s = .next t ∧ t.getV VF = 0x00 ∧
      (x ≠ VF → ∀ b < 8, (t.getV x).getLsbD b = ((s.getV x).getLsbD b && (s.getV y).getLsbD b)) ∧
      OnlyChanges (· ∈ [Part.V x, .V VF]) s t) ∧
    (∃ t, exec (.xorReg x y) s = .next t ∧ t.getV VF = 0x00 ∧
      (x ≠ VF → ∀ b < 8, (t.getV x).getLsbD b = ((s.getV x).getLsbD b ^^ (s.getV y).getLsbD b)) ∧
      OnlyChanges (· ∈ [Part.V x, .V VF]) s t)

/-- R463: 8XY4 adds modulo 256, and VF ends as the carry, also when it is VX: the
write order for X = F is decision D14 (log entry 15). -/
def Obligations.AddSetsTheCarry : Prop :=
  ∀ (s : State) (x y : Reg), ∃ t, exec (.addReg x y) s = .next t ∧
    (x ≠ VF → (t.getV x).toNat = ((s.getV x).toNat + (s.getV y).toNat) % 256) ∧
    (t.getV VF).toNat = (if (s.getV x).toNat + (s.getV y).toNat > 255 then 1 else 0) ∧
    OnlyChanges (· ∈ [Part.V x, .V VF]) s t

/-- R466, R472: 8XY5 and 8XY7 subtract modulo 256, in the two orders, and VF ends as no-borrow,
also when it is VX: the write order for X = F is decision D14 (log entry 15). -/
def Obligations.SubtractionsSetNoBorrow : Prop :=
  ∀ (s : State) (x y : Reg),
    (∃ t, exec (.subReg x y) s = .next t ∧
      (x ≠ VF → (t.getV x).toNat = ((s.getV x).toNat + 256 - (s.getV y).toNat) % 256) ∧
      (t.getV VF).toNat = (if (s.getV x).toNat ≥ (s.getV y).toNat then 1 else 0) ∧
      OnlyChanges (· ∈ [Part.V x, .V VF]) s t) ∧
    (∃ t, exec (.subnReg x y) s = .next t ∧
      (x ≠ VF → (t.getV x).toNat = ((s.getV y).toNat + 256 - (s.getV x).toNat) % 256) ∧
      (t.getV VF).toNat = (if (s.getV y).toNat ≥ (s.getV x).toNat then 1 else 0) ∧
      OnlyChanges (· ∈ [Part.V x, .V VF]) s t)

/-- R469, R475: the shifts move the configured source by one bit; VX ends as the result, also when it
is VF, and otherwise VF is the bit shifted out. The write order for X = F is decision D14 (log entry
15). -/
def Obligations.ShiftsMoveTheConfiguredSource : Prop :=
  ∀ (s : State) (x y : Reg) (src : Byte),
    src = (if s.cfg.legacyShift then s.getV y else s.getV x) →
    (∃ t, exec (.shr x y) s = .next t ∧ (t.getV x).toNat = src.toNat / 2 ∧
      (x ≠ VF → (t.getV VF).toNat = src.toNat % 2) ∧ OnlyChanges (· ∈ [Part.V x, .V VF]) s t) ∧
    (∃ t, exec (.shl x y) s = .next t ∧ (t.getV x).toNat = src.toNat * 2 % 256 ∧
      (x ≠ VF → (t.getV VF).toNat = src.toNat / 128) ∧ OnlyChanges (· ∈ [Part.V x, .V VF]) s t)

/-- R480: CXNN draws once, whatever NN is, and writes the drawn byte masked by NN. The drawn byte is
the free value of the draw: the statement holds for every value it may have. That draws are numbered by
a counter in the state is the model's choice (log entry 3). -/
def Obligations.RandomIsMaskedAndDrawnOnce : Prop :=
  ∀ (s : State) (x : Reg) (nn : Byte), ∃ t, exec (.rnd x nn) s = .next t ∧
    (∀ b < 8, (t.getV x).getLsbD b = ((Config.randomByte s.draws).getLsbD b && nn.getLsbD b)) ∧
    t.getV x &&& ~~~nn = 0 ∧ t.draws = s.draws + 1 ∧ OnlyChanges (· ∈ [Part.V x, .draws]) s t

/-! ### I and memory -/

/-- R500, R503: ANNN and FX1E write I, the second adding modulo 2^16 with no flag (the wrap
is decision D10, log entry 19). -/
def Obligations.IndexLoadsAndAdds : Prop :=
  ∀ (s : State) (x : Reg) (nnn : BitVec 12),
    (∃ t, exec (.ldI nnn) s = .next t ∧ t.I.toNat = nnn.toNat ∧ OnlyChanges (· ∈ [Part.I]) s t) ∧
    (∃ t, exec (.addI x) s = .next t ∧ t.I.toNat = (s.I.toNat + (s.getV x).toNat) % 65536 ∧
      OnlyChanges (· ∈ [Part.I]) s t)

/-- R508, R511, R212: FX29 points I at the glyph of the digit, and halts the block above 15 with I
unchanged. The halt is decision D20 (log entry 16). -/
def Obligations.GlyphAddressOrDigitOutOfRange : Prop :=
  ∀ (s : State) (x : Reg),
    ((s.getV x).toNat > 15 → HaltsWith .digitOutOfRange (.ldGlyph x) s) ∧
    ((s.getV x).toNat ≤ 15 → ∃ t, exec (.ldGlyph x) s = .next t ∧
      t.I.toNat = 0x050 + 5 * (s.getV x).toNat ∧ OnlyChanges (· ∈ [Part.I]) s t)

/-- R515, R214: FX33 stores the three decimal digits at I, or halts the block with nothing written.
What the halt records is decision D15. -/
def Obligations.BcdStoresThreeDigitsAtI : Prop :=
  ∀ (s : State) (x : Reg),
    (s.I.toNat + 3 > s.cfg.capacity → HaltsWith .memoryOutOfBounds (.ldBcd x) s) ∧
    (s.I.toNat + 3 ≤ s.cfg.capacity → Memory.wf s.cfg s.mem → ∃ t, exec (.ldBcd x) s = .next t ∧
      (t.peek s.I.toNat).toNat = (s.getV x).toNat / 100 ∧
      (t.peek (s.I.toNat + 1)).toNat = (s.getV x).toNat / 10 % 10 ∧
      (t.peek (s.I.toNat + 2)).toNat = (s.getV x).toNat % 10 ∧
      OnlyChanges (fun p => ∃ k < 3, p = Part.byte (s.I.toNat + k)) s t)

/-- R520, R525, R215: FX55 stores V0 to VX from I up and leaves I, or halts the block with nothing
written. What the halt records is decision D15. -/
def Obligations.BulkStoreWritesRegistersAtI : Prop :=
  ∀ (s : State) (x : Reg),
    (s.I.toNat + x.val + 1 > s.cfg.capacity → HaltsWith .memoryOutOfBounds (.storeRegs x) s) ∧
    (s.I.toNat + x.val + 1 ≤ s.cfg.capacity → Memory.wf s.cfg s.mem →
      ∃ t, exec (.storeRegs x) s = .next t ∧
        (∀ r : Reg, r ≤ x → t.peek (s.I.toNat + r.val) = s.getV r) ∧
        OnlyChanges (fun p => ∃ r : Reg, r ≤ x ∧ p = Part.byte (s.I.toNat + r.val)) s t)

/-- R528, R530, R216: FX65 loads V0 to VX from I up and leaves I and memory, or halts the block with
no register written. What the halt records is decision D15. -/
def Obligations.BulkLoadReadsRegistersFromI : Prop :=
  ∀ (s : State) (x : Reg),
    (s.I.toNat + x.val + 1 > s.cfg.capacity → HaltsWith .memoryOutOfBounds (.loadRegs x) s) ∧
    (s.I.toNat + x.val + 1 ≤ s.cfg.capacity → ∃ t, exec (.loadRegs x) s = .next t ∧
      (∀ r : Reg, r ≤ x → t.getV r = s.peek (s.I.toNat + r.val)) ∧
      OnlyChanges (fun p => ∃ r : Reg, r ≤ x ∧ p = Part.V r) s t)

/-- R230: the fetch that follows a store sees the bytes stored. -/
def Obligations.NextFetchSeesTheStore : Prop :=
  ∀ (s : State) (x hi lo : Reg), s.Inv → s.Running → s.I.toNat + x.val + 1 ≤ s.cfg.capacity →
    hi ≤ x → lo ≤ x → lo.val = hi.val + 1 → s.pc.toNat = s.I.toNat + hi.val →
    ∃ t w, exec (.storeRegs x) s = .next t ∧ t.fetch = some w ∧
      w.toNat = 256 * (s.getV hi).toNat + (s.getV lo).toNat

/-! ### Display and keys -/

/-- R540, R542: 00E0 turns every cell off and changes nothing else. -/
def Obligations.ClearScreenTurnsEveryCellOff : Prop :=
  ∀ s : State, ∃ t, exec .cls s = .next t ∧ (∀ p, t.fb.lit p = false) ∧
    OnlyChanges (· ∈ [Part.fb]) s t

/-- R543, R544, R545: drawing a sprite flips exactly the cells it covers and collides exactly when one
of them was lit. The bit order is decision D18 (log entry 12). -/
def Obligations.DrawSpriteFlipsTheCoveredCells : Prop :=
  ∀ (cfg : Config) (g : Grid) (rows : List Byte) (x y : Byte), Grid.wf cfg g →
    (∀ p, (drawSprite cfg g rows x y).1.lit p = true ↔
      (g.lit p = true ∧ ¬ SpriteCovers cfg rows x y p) ∨
      (g.lit p = false ∧ SpriteCovers cfg rows x y p)) ∧
    ((drawSprite cfg g rows x y).2 = true ↔ ∃ p, g.lit p = true ∧ SpriteCovers cfg rows x y p)

/-- R545: drawing a sprite twice at one place restores the grid, and the second draw collides exactly
when the first turned a cell on. -/
def Obligations.DrawingTwiceRestoresTheGrid : Prop :=
  ∀ (cfg : Config) (g : Grid) (rows : List Byte) (x y : Byte), Grid.wf cfg g →
    (drawSprite cfg (drawSprite cfg g rows x y).1 rows x y).1 = g ∧
    ((drawSprite cfg (drawSprite cfg g rows x y).1 rows x y).2 = true ↔
      ∃ p, g.lit p = false ∧ SpriteCovers cfg rows x y p)

/-- R546: DXYN draws the N bytes at I at the coordinates VX, VY as they stood and sets VF to the
collision, or halts the block with the grid and VF unchanged. The bit order is decision D18 (log entry
12); what the halt records is decision D15. -/
def Obligations.DrawSetsVFToTheCollision : Prop :=
  ∀ (s : State) (x y : Reg) (n : BitVec 4),
    (s.I.toNat + n.toNat > s.cfg.capacity → HaltsWith .memoryOutOfBounds (.drw x y n) s) ∧
    ∀ rows : List Byte, s.I.toNat + n.toNat ≤ s.cfg.capacity → Grid.wf s.cfg s.fb →
      rows.length = n.toNat →
      (∀ k, ∀ hk : k < rows.length, rows[k] = s.peek (s.I.toNat + k)) →
      ∃ t, exec (.drw x y n) s = .next t ∧
        (∀ p, t.fb.lit p = true ↔
          (s.fb.lit p = true ∧ ¬ SpriteCovers s.cfg rows (s.getV x) (s.getV y) p) ∨
          (s.fb.lit p = false ∧ SpriteCovers s.cfg rows (s.getV x) (s.getV y) p)) ∧
        ((∃ p, s.fb.lit p = true ∧ SpriteCovers s.cfg rows (s.getV x) (s.getV y) p) →
          t.getV VF = 0x01) ∧
        ((¬ ∃ p, s.fb.lit p = true ∧ SpriteCovers s.cfg rows (s.getV x) (s.getV y) p) →
          t.getV VF = 0x00) ∧
        OnlyChanges (· ∈ [Part.fb, .V VF]) s t

/-- R550, R552, R554: the key skips read the level of key VX, and halt the block when VX is above 15.
The halt is decision D19 (log entry 16); the levels are a field of the state (log entry 9). -/
def Obligations.KeySkipsReadTheKeyLevel : Prop :=
  ∀ (s : State) (x : Reg),
    ((s.getV x).toNat > 15 →
      HaltsWith .keyOutOfRange (.skp x) s ∧ HaltsWith .keyOutOfRange (.sknp x) s) ∧
    ∀ k : Key, (s.getV x).toNat = k.val →
      (∃ t, exec (.skp x) s = .next t ∧ OnlyChanges (· ∈ [Part.pc]) s t ∧
        t.pc.toNat = if s.keys[k] then (s.pc.toNat + 2) % 65536 else s.pc.toNat) ∧
      (∃ t, exec (.sknp x) s = .next t ∧ OnlyChanges (· ∈ [Part.pc]) s t ∧
        t.pc.toNat = if s.keys[k] then s.pc.toNat else (s.pc.toNat + 2) % 65536)

/-- R560: the phases of FX0A. With no key recorded it replays, and records the lowest-numbered key
held if there is one; with a key recorded it replays while that key is held, and otherwise writes the
key's code to VX and forgets the key. The phases are decision D21 (log entry 17). -/
def Obligations.KeyWaitFollowsItsTwoPhases : Prop :=
  ∀ (s : State) (x : Reg),
    (s.waitKey = none → (∀ k : Key, s.keys[k] = false) → ∃ t, exec (.ldKey x) s = .next t ∧
      t.pc = s.pc - 2 ∧ OnlyChanges (· ∈ [Part.pc]) s t) ∧
    (s.waitKey = none → ∀ k : Key, s.keys[k] = true → (∀ j : Key, j < k → s.keys[j] = false) →
      ∃ t, exec (.ldKey x) s = .next t ∧ t.pc = s.pc - 2 ∧ t.waitKey = some k ∧
        OnlyChanges (· ∈ [Part.pc, .waitKey]) s t) ∧
    (∀ k : Key, s.waitKey = some k → s.keys[k] = true → ∃ t, exec (.ldKey x) s = .next t ∧
      t.pc = s.pc - 2 ∧ OnlyChanges (· ∈ [Part.pc]) s t) ∧
    (∀ k : Key, s.waitKey = some k → s.keys[k] = false → ∃ t, exec (.ldKey x) s = .next t ∧
      (t.getV x).toNat = k.val ∧ t.waitKey = none ∧ OnlyChanges (· ∈ [Part.V x, .waitKey]) s t)

/-- R562, R560: a step of FX0A that neither sees a press nor resolves leaves the whole state as it is.
D21 (log entry 17). -/
def Obligations.WaitingKeyStepIsAFixedPoint : Prop :=
  ∀ (s : State) (w : Word) (x : Reg), s.CanFetch → s.WordAt s.pc.toNat w →
    decode s.cfg.strictDecode w = .ldKey x →
    ((s.waitKey = none ∧ ∀ k : Key, s.keys[k] = false) ∨
      ∃ k : Key, s.waitKey = some k ∧ s.keys[k] = true) →
    step s = .next s

/-- R560: a step that sees the press, the key's release, and one more step complete FX0A. D21 (log
entry 17). -/
def Obligations.PressThenReleaseCompletesKeyWait : Prop :=
  ∀ (s : State) (w : Word) (x : Reg) (k : Key) (released : Vector Bool 16), s.CanFetch →
    s.WordAt s.pc.toNat w → decode s.cfg.strictDecode w = .ldKey x → s.waitKey = none →
    s.keys[k] = true → (∀ j : Key, j < k → s.keys[j] = false) → released[k] = false →
    ∃ t, s.afterCalls [.step, .pollInput released, .step] = t ∧ (t.getV x).toNat = k.val ∧
      t.pc = s.pc + 2 ∧ t.waitKey = none ∧ OnlyChanges (· ∈ [Part.V x, .pc, .keys]) s t

/-! ### Timers -/

/-- R582: FX07 reads the integer part of DT (decision D9, log entry 18). -/
def Obligations.ReadTimerIsTheIntegerPart : Prop :=
  ∀ (s : State) (x : Reg), ∃ t, exec (.ldFromDT x) s = .next t ∧
    (t.getV x).toNat = s.DT.toNat / 256 ∧ OnlyChanges (· ∈ [Part.V x]) s t

/-- R585, R587: FX15 and FX18 set a timer to the whole count VX. -/
def Obligations.SetTimersToWholeCounts : Prop :=
  ∀ (s : State) (x : Reg),
    (∃ t, exec (.ldDT x) s = .next t ∧ t.DT.toNat = 256 * (s.getV x).toNat ∧
      OnlyChanges (· ∈ [Part.DT]) s t) ∧
    (∃ t, exec (.ldST x) s = .next t ∧ t.ST.toNat = 256 * (s.getV x).toNat ∧
      OnlyChanges (· ∈ [Part.ST]) s t)

/-- R580: `decay` lowers both timers by the same amount, each stopping at zero, and changes nothing
else; a halted block it leaves as it is. D7, D15 (log entry 18). -/
def Obligations.DecayLowersBothTimers : Prop :=
  ∀ (s : State) (dec : Word),
    (s.Running → (s.decay dec).DT.toNat = s.DT.toNat - dec.toNat ∧
      (s.decay dec).ST.toNat = s.ST.toNat - dec.toNat ∧
      OnlyChanges (· ∈ [Part.DT, .ST]) s (s.decay dec)) ∧
    (¬ s.Running → s.decay dec = s)

/-- R583, R584: a timer rises only in a step of the instruction that sets it. -/
def Obligations.TimersRiseOnlyWhenSet : Prop :=
  ∀ (s : State) (call : HostCall),
    (s.DT.toNat < (s.afterCall call).DT.toNat → call = .step ∧
      ∃ w x, s.fetch = some w ∧ decode s.cfg.strictDecode w = .ldDT x) ∧
    (s.ST.toNat < (s.afterCall call).ST.toNat → call = .step ∧
      ∃ w x, s.fetch = some w ∧ decode s.cfg.strictDecode w = .ldST x)

/-! ### What an instruction cannot depend on -/

/-- R404 with R141: only EX9E, EXA1 and FX0A read the keys; any other instruction does the same
whatever the key levels are. It holds for CXNN because the model gives both sides the same byte at the
same draw number (log entry 3). -/
def Obligations.KeysMatterOnlyToKeyInstructions : Prop :=
  ∀ (i : Instr) (s t : State) (keys : Vector Bool 16),
    (∀ x, i ≠ .skp x ∧ i ≠ .sknp x ∧ i ≠ .ldKey x) →
    exec i s = .next t → exec i (s.pollInput keys) = .next (t.pollInput keys)

/-- R584 with R113: an instruction that names no timer does the same whatever the timers hold, and
leaves them. It holds for CXNN because the model gives both sides the same byte at the same draw number
(log entry 3). -/
def Obligations.TimersMatterOnlyToTimerInstructions : Prop :=
  ∀ (i : Instr) (s t : State) (dt st : Word),
    (∀ x, i ≠ .ldFromDT x ∧ i ≠ .ldDT x ∧ i ≠ .ldST x) →
    exec i s = .next t → exec i ((s.setDT dt).setST st) = .next ((t.setDT dt).setST st)

/-- R10, R307: the two legacy switches change the shifts and BNNN and no other instruction. That
the switches stand in the state is the model's choice (log entry 1). It holds for CXNN because the model
gives both sides the same byte at the same draw number (log entry 3). -/
def Obligations.LegacySwitchesReachOnlyTheirInstructions : Prop :=
  ∀ (i : Instr) (s t : State) (b : Bool), exec i s = .next t →
    ((∀ x y, i ≠ .shr x y ∧ i ≠ .shl x y) →
      exec i { s with cfg := { s.cfg with legacyShift := b } } =
        .next { t with cfg := { t.cfg with legacyShift := b } }) ∧
    ((∀ nnn, i ≠ .jpOffset nnn) →
      exec i { s with cfg := { s.cfg with legacyJumpOffset := b } } =
        .next { t with cfg := { t.cfg with legacyJumpOffset := b } })

/-! ### The host, and invariants -/

/-- R581, R720, R722: a tick decays the timers first, then runs at most one step when a period has
accumulated, and the accumulated time stays non-negative. The conversion is decision D7; host time as a
rational is the model's choice (log entry 14). -/
def Obligations.TickDecaysThenRunsAtMostOneStep : Prop :=
  ∀ (d : Driver) (dt : ℚ) (keys : Vector Bool 16), 0 ≤ d.acc → 0 ≤ dt →
    (decayAmount dt).toNat = min 65535 ⌊dt * 60 * 256⌋₊ ∧
    (d.acc + dt < 1 / 500 → (d.tick dt keys).block = d.block.decay (decayAmount dt) ∧
      (d.tick dt keys).acc = d.acc + dt) ∧
    (1 / 500 ≤ d.acc + dt →
      (d.tick dt keys).block = ((d.block.decay (decayAmount dt)).stepCall).pollInput keys ∧
      (d.tick dt keys).acc = d.acc + dt - 1 / 500) ∧
    0 ≤ (d.tick dt keys).acc

/-- The invariant: every step from a legal state leads to a legal state (canonical memory and grid
inside their spaces, the stack within its bound, the halt record as R119 says), and the build
parameters never change (R10, R122). The canonical forms are the model's (log entries 4 and 7). -/
def Obligations.StepKeepsTheStateLegal : Prop :=
  ∀ s t : State, s.Inv → step s = .next t → t.Inv ∧ t.cfg = s.cfg

/-- Along every finite schedule (R725) of host calls (R146) after a load, the state is legal (R100, R115,
R119, R200, R541) and the build parameters are those the block was built with (R10). The canonical forms
of memory and grid in the invariant are the model's (log entries 4 and 7). -/
def Obligations.EveryScheduleFromLoadStaysLegal : Prop :=
  ∀ (cfg : Config) (rom : List Byte) (s : State) (calls : List HostCall), cfg.wf = true →
    load cfg rom = .ok s → (s.afterCalls calls).Inv ∧ (s.afterCalls calls).cfg = cfg

/-- The invariant, for every host call (R146, and the key input of R141): from a legal state a step, a
decay by any amount and an input poll lead to a legal state with the same build parameters. The
canonical forms are the model's (log entries 4 and 7). -/
def Obligations.EveryHostCallKeepsTheStateLegal : Prop :=
  ∀ (s : State) (call : HostCall), s.Inv → (s.afterCall call).Inv ∧ (s.afterCall call).cfg = s.cfg

/-- R725 for infinite schedules: every state along one that starts after a load is legal with the build
parameters of the block, and from the first halted state on nothing but the key levels changes (R119). The
canonical forms of memory and grid in the invariant are the model's (log entries 4 and 7). -/
def Obligations.InfiniteScheduleStaysLegalAndHaltsForGood : Prop :=
  ∀ (cfg : Config) (rom : List Byte) (s : State) (schedule : InfiniteSchedule), cfg.wf = true →
    load cfg rom = .ok s →
    (∀ n, (s.afterFirst schedule n).Inv ∧ (s.afterFirst schedule n).cfg = cfg) ∧
    ∀ n m, n ≤ m → ¬ (s.afterFirst schedule n).Running →
      OnlyChanges (· ∈ [Part.keys]) (s.afterFirst schedule n) (s.afterFirst schedule m)

/-- R725 ("A claim about a program that does not read DT holds for every schedule if it holds for the
sequence of steps alone"): along a schedule whose steps run no FX07, leaving out the decay calls
changes DT and ST at most. It holds with CXNN because the draws keep their numbers (log entry 3). -/
def Obligations.DecayCallsReachOnlyRunsThatReadDT : Prop :=
  ∀ (s : State) (calls : List HostCall), s.ReadsNoTimer calls →
    (s.afterCalls calls).SameButTimers (s.afterCalls (calls.filter (!·.isDecay)))

/-- R725 ("The reference host of rule R720 is one such schedule"), R722: a run of ticks leaves the block
as the schedule of its calls does, and that schedule has one decay for each tick and at most one step.
Host time as a rational is the model's choice (log entry 14). -/
def Obligations.ReferenceHostIsASchedule : Prop :=
  ∀ (d : Driver) (ticks : List (ℚ × Vector Bool 16)),
    (d.afterTicks ticks).block = d.block.afterCalls (d.callsOf ticks) ∧
    ((d.callsOf ticks).filter HostCall.isDecay).length = ticks.length ∧
    (d.callsOf ticks).count .step ≤ ticks.length
end

