-- ==== Sys2Proof/Laws/Decode.lean ====
section
/-! SUPPORT. The fields of the words that the encoder's formats make, and a word put together again
from its two bytes. -/

namespace Sys2Proof

variable (op n : BitVec 4) (x y : Reg) (nn : Byte) (nnn : BitVec 12) (w : Word)

/-! ### Format A -/

@[simp] theorem nibble3_formatA : nibble (formatA op nnn) 3 = op := by
  apply BitVec.eq_of_getLsbD_eq
  intro i hi
  simp [nibble, formatA, place]
  interval_cases i <;> simp

@[simp] theorem addr12_formatA : addr12 (formatA op nnn) = nnn := by
  apply BitVec.eq_of_getLsbD_eq
  intro i hi
  simp [addr12, formatA, place]
  interval_cases i <;> simp

/-! ### Formats XNN, XS -/

@[simp] theorem nibble3_formatXNN : nibble (formatXNN op x nn) 3 = op := by
  apply BitVec.eq_of_getLsbD_eq
  intro i hi
  simp [nibble, formatXNN, place]
  interval_cases i <;> simp

@[simp] theorem nibble2_formatXNN : nibble (formatXNN op x nn) 2 = regBits x := by
  apply BitVec.eq_of_getLsbD_eq
  intro i hi
  simp [nibble, formatXNN, place]
  interval_cases i <;> simp

@[simp] theorem byteOf0_formatXNN : byteOf (formatXNN op x nn) 0 = nn := by
  apply BitVec.eq_of_getLsbD_eq
  intro i hi
  simp [byteOf, formatXNN, place]
  interval_cases i <;> simp

@[simp] theorem fieldX_formatXNN : fieldX (formatXNN op x nn) = x := by
  simp [fieldX, regBits]

/-! ### Formats XY, XYN -/

@[simp] theorem nibble3_formatXYN : nibble (formatXYN op x y n) 3 = op := by
  apply BitVec.eq_of_getLsbD_eq
  intro i hi
  simp [nibble, formatXYN, place]
  interval_cases i <;> simp

@[simp] theorem nibble2_formatXYN : nibble (formatXYN op x y n) 2 = regBits x := by
  apply BitVec.eq_of_getLsbD_eq
  intro i hi
  simp [nibble, formatXYN, place]
  interval_cases i <;> simp

@[simp] theorem nibble1_formatXYN : nibble (formatXYN op x y n) 1 = regBits y := by
  apply BitVec.eq_of_getLsbD_eq
  intro i hi
  simp [nibble, formatXYN, place]
  interval_cases i <;> simp

@[simp] theorem nibble0_formatXYN : nibble (formatXYN op x y n) 0 = n := by
  apply BitVec.eq_of_getLsbD_eq
  intro i hi
  simp [nibble, formatXYN, place]
  interval_cases i <;> simp

@[simp] theorem fieldX_formatXYN : fieldX (formatXYN op x y n) = x := by
  simp [fieldX, regBits]

@[simp] theorem fieldY_formatXYN : fieldY (formatXYN op x y n) = y := by
  simp [fieldY, regBits]

/-! ### Bytes and words -/

/-- The bytes of a word, put together again, are the word (R307). -/
@[simp] theorem wordOfBytes_byteOf : wordOfBytes (byteOf w 1) (byteOf w 0) = w := by
  apply BitVec.eq_of_getLsbD_eq
  intro i hi
  simp [wordOfBytes, byteOf]
  interval_cases i <;> simp

@[simp] theorem byteOf1_wordOfBytes (hi lo : Byte) : byteOf (wordOfBytes hi lo) 1 = hi := by
  apply BitVec.eq_of_getLsbD_eq
  intro i h
  simp [wordOfBytes, byteOf]
  interval_cases i <;> simp

@[simp] theorem byteOf0_wordOfBytes (hi lo : Byte) : byteOf (wordOfBytes hi lo) 0 = lo := by
  apply BitVec.eq_of_getLsbD_eq
  intro i h
  simp [wordOfBytes, byteOf]
  interval_cases i <;> simp

/-- The value of a word of two bytes: the first counts 256 times (R208). -/
theorem toNat_wordOfBytes (hi lo : Byte) :
    (wordOfBytes hi lo).toNat = 256 * hi.toNat + lo.toNat := by
  have h1 := hi.isLt
  have h2 := lo.isLt
  simp only [wordOfBytes, BitVec.toNat_or, BitVec.toNat_shiftLeft, BitVec.toNat_setWidth]
  rw [Nat.mod_eq_of_lt (by omega : hi.toNat < 2 ^ 16),
    Nat.mod_eq_of_lt (by omega : lo.toNat < 2 ^ 16),
    Nat.mod_eq_of_lt (by rw [Nat.shiftLeft_eq]; omega),
    ← Nat.shiftLeft_add_eq_or_of_lt (by omega : lo.toNat < 2 ^ 8), Nat.shiftLeft_eq]
  omega

/-- Decoding two bytes decodes their word and leaves the rest (R300). -/
@[simp] theorem decodeBytes_cons (strict : Bool) (hi lo : Byte) (rest : List Byte) :
    decodeBytes strict (hi :: lo :: rest) = .ok (decode strict (wordOfBytes hi lo), rest) := rfl

end Sys2Proof
end

