-- ==== Sys2Proof/Laws/Display.lean ====
section
/-! SUPPORT. What toggling one cell of the grid does. -/

namespace Sys2Proof.Machine

variable {p q r : Pixel} {g : Grid} {cfg : Config}

theorem Pixel.before_irrefl : ¬ p.before p := by
  unfold Pixel.before
  omega

theorem Pixel.before_trans (h : p.before q) (h' : q.before r) : p.before r := by
  unfold Pixel.before at *
  omega

/-- Two different cells are in raster order one way or the other. -/
theorem Pixel.before_total (h : p ≠ q) : p.before q ∨ q.before p := by
  have : p.row ≠ q.row ∨ p.col ≠ q.col := by
    by_contra hc
    push Not at hc
    exact h (by cases p; cases q; simp_all)
  unfold Pixel.before
  omega

@[simp] theorem Grid.lit_iff : g.lit p = true ↔ p ∈ g := by simp [Grid.lit]

/-- Toggling flips one cell and leaves every other as it is. -/
theorem Grid.mem_toggle (h : g.Pairwise Pixel.before) :
    q ∈ g.toggle p ↔ (if q = p then p ∉ g else q ∈ g) := by
  induction g with
  | nil => simp [Grid.toggle]
  | cons c g ih =>
    obtain ⟨hc, hg⟩ := List.pairwise_cons.1 h
    have ih := ih hg
    simp only [Grid.toggle]
    split
    · next he =>
      subst he
      have hn : c ∉ g := fun hm => Pixel.before_irrefl (hc c hm)
      split
      · next hq => subst hq; simp [hn]
      · next hq => simp [hq]
    · next hne =>
      split
      · next hb =>
        have hn : p ∉ c :: g := by
          intro hm
          rcases List.mem_cons.1 hm with hm | hm
          · exact hne hm.symm
          · exact Pixel.before_irrefl (Pixel.before_trans hb (hc p hm))
        split
        · next hq => subst hq; simp [hn]
        · next hq => simp [hq]
      · by_cases hq : q = p
        · subst hq
          have : q ≠ c := Ne.symm hne
          simp_all
        · simp_all

/-- Toggling keeps the raster order. -/
theorem Grid.pairwise_toggle (h : g.Pairwise Pixel.before) : (g.toggle p).Pairwise Pixel.before := by
  induction g with
  | nil => simp [Grid.toggle]
  | cons c g ih =>
    obtain ⟨hc, hg⟩ := List.pairwise_cons.1 h
    simp only [Grid.toggle]
    split
    · exact hg
    · next hne =>
      split
      · next hb =>
        refine List.pairwise_cons.2 ⟨fun d hd => ?_, h⟩
        rcases List.mem_cons.1 hd with rfl | hd
        · exact hb
        · exact Pixel.before_trans hb (hc d hd)
      · next hb =>
        refine List.pairwise_cons.2 ⟨fun d hd => ?_, ih hg⟩
        rw [Grid.mem_toggle hg] at hd
        split at hd
        · next he =>
          subst he
          exact (Pixel.before_total hne).resolve_right hb
        · exact hc d hd

/-- Drawing one pixel keeps the canonical form of the grid. -/
theorem drawPixel_wf {gc : Grid × Bool} (h : Grid.wf cfg gc.1) :
    Grid.wf cfg (drawPixel cfg gc p).1 := by
  unfold drawPixel
  split
  · next hp =>
    refine ⟨Grid.pairwise_toggle h.1, fun q hq => ?_⟩
    rw [Grid.mem_toggle h.1] at hq
    split at hq
    · next he => exact he ▸ hp
    · exact h.2 q hq
  · exact h

end Sys2Proof.Machine
end

