-- ==== Sys2Proof/Laws/Host.lean ====
section
/-! SUPPORT. Schedules of host calls: the states along one, an infinite schedule by its finite
prefixes, and the induction along a schedule, packaged once. -/

namespace Sys2Proof.Machine

variable (s : State) (schedule : InfiniteSchedule)

/-! ### Finite schedules -/

@[simp] theorem State.afterCalls_nil : s.afterCalls [] = s := rfl

@[simp] theorem State.afterCalls_cons (call : HostCall) (calls : List HostCall) :
    s.afterCalls (call :: calls) = (s.afterCall call).afterCalls calls := rfl

@[simp] theorem State.afterCalls_append (before after : List HostCall) :
    s.afterCalls (before ++ after) = (s.afterCalls before).afterCalls after := by
  simp [State.afterCalls]

@[simp] theorem State.afterCall_step : s.afterCall .step = s.stepCall := rfl

@[simp] theorem State.afterCall_decay (dec : Word) : s.afterCall (.decay dec) = s.decay dec := rfl

@[simp] theorem State.afterCall_pollInput (keys : Vector Bool 16) :
    s.afterCall (.pollInput keys) = s.pollInput keys := rfl

@[simp] theorem HostCall.isDecay_decay (dec : Word) : (HostCall.decay dec).isDecay = true := rfl

@[simp] theorem HostCall.isDecay_step : HostCall.step.isDecay = false := rfl

@[simp] theorem HostCall.isDecay_pollInput (keys : Vector Bool 16) :
    (HostCall.pollInput keys).isDecay = false := rfl

/-- What holds at the start and is kept by every call holds after a finite schedule. -/
theorem State.afterCalls_invariant {P : State → Prop}
    (keep : ∀ (t : State) (call : HostCall), P t → P (t.afterCall call)) (h : P s)
    (calls : List HostCall) : P (s.afterCalls calls) := by
  induction calls generalizing s with
  | nil => exact h
  | cons call calls ih => exact ih _ (keep s call h)

/-! ### Infinite schedules -/

@[simp] theorem State.afterFirst_zero : s.afterFirst schedule 0 = s := rfl

@[simp] theorem State.afterFirst_succ (n : Nat) :
    s.afterFirst schedule (n + 1) = (s.afterFirst schedule n).afterCall (schedule n) := rfl

/-- The first `n` calls of an infinite schedule are a finite schedule. -/
theorem State.afterFirst_eq_afterCalls (n : Nat) :
    s.afterFirst schedule n = s.afterCalls ((List.range n).map schedule) := by
  induction n with
  | zero => rfl
  | succ n ih => simp [List.range_succ, ih]

/-- From `n` calls on, the schedule goes on with its remaining calls. -/
theorem State.afterFirst_add (n k : Nat) : s.afterFirst schedule (n + k) =
    (s.afterFirst schedule n).afterFirst (fun i => schedule (n + i)) k := by
  induction k with
  | zero => rfl
  | succ k ih => rw [← Nat.add_assoc, State.afterFirst_succ, State.afterFirst_succ, ih]

/-- What holds at the start and is kept by every call holds all along an infinite schedule. -/
theorem State.afterFirst_invariant {P : State → Prop}
    (keep : ∀ (t : State) (call : HostCall), P t → P (t.afterCall call)) (h : P s) (n : Nat) :
    P (s.afterFirst schedule n) := by
  induction n with
  | zero => exact h
  | succ n ih => exact keep _ _ ih

/-! ### The reference host -/

@[simp] theorem Driver.afterTicks_nil (d : Driver) : d.afterTicks [] = d := rfl

@[simp] theorem Driver.afterTicks_cons (d : Driver) (dt : ℚ) (keys : Vector Bool 16)
    (ticks : List (ℚ × Vector Bool 16)) :
    d.afterTicks ((dt, keys) :: ticks) = (d.tick dt keys).afterTicks ticks := rfl

@[simp] theorem Driver.callsOf_nil (d : Driver) : d.callsOf [] = [] := rfl

end Sys2Proof.Machine
end

