-- ==== Sys2Proof/Laws/State.lean ====
section
/-! SUPPORT. One lemma per field per update of the state, so that no proof unfolds a record update. -/

namespace Sys2Proof.Machine

variable (s : State)

/-! ### `setV` -/

@[simp] theorem State.setV_cfg (x : Reg) (b : Byte) : (s.setV x b).cfg = s.cfg := rfl
@[simp] theorem State.setV_V (x : Reg) (b : Byte) : (s.setV x b).V = s.V.set x b := rfl
@[simp] theorem State.setV_I (x : Reg) (b : Byte) : (s.setV x b).I = s.I := rfl
@[simp] theorem State.setV_pc (x : Reg) (b : Byte) : (s.setV x b).pc = s.pc := rfl
@[simp] theorem State.setV_DT (x : Reg) (b : Byte) : (s.setV x b).DT = s.DT := rfl
@[simp] theorem State.setV_ST (x : Reg) (b : Byte) : (s.setV x b).ST = s.ST := rfl
@[simp] theorem State.setV_stack (x : Reg) (b : Byte) : (s.setV x b).stack = s.stack := rfl
@[simp] theorem State.setV_mem (x : Reg) (b : Byte) : (s.setV x b).mem = s.mem := rfl
@[simp] theorem State.setV_waitKey (x : Reg) (b : Byte) : (s.setV x b).waitKey = s.waitKey := rfl
@[simp] theorem State.setV_status (x : Reg) (b : Byte) : (s.setV x b).status = s.status := rfl
@[simp] theorem State.setV_fb (x : Reg) (b : Byte) : (s.setV x b).fb = s.fb := rfl
@[simp] theorem State.setV_keys (x : Reg) (b : Byte) : (s.setV x b).keys = s.keys := rfl
@[simp] theorem State.setV_draws (x : Reg) (b : Byte) : (s.setV x b).draws = s.draws := rfl
@[simp] theorem State.setV_reports (x : Reg) (b : Byte) : (s.setV x b).reports = s.reports := rfl
@[simp] theorem State.setV_peek (x : Reg) (b : Byte) (a : Nat) : (s.setV x b).peek a = s.peek a := rfl

/-! ### `setI` -/

@[simp] theorem State.setI_cfg (v : Word) : (s.setI v).cfg = s.cfg := rfl
@[simp] theorem State.setI_V (v : Word) : (s.setI v).V = s.V := rfl
@[simp] theorem State.setI_I (v : Word) : (s.setI v).I = v := rfl
@[simp] theorem State.setI_pc (v : Word) : (s.setI v).pc = s.pc := rfl
@[simp] theorem State.setI_DT (v : Word) : (s.setI v).DT = s.DT := rfl
@[simp] theorem State.setI_ST (v : Word) : (s.setI v).ST = s.ST := rfl
@[simp] theorem State.setI_stack (v : Word) : (s.setI v).stack = s.stack := rfl
@[simp] theorem State.setI_mem (v : Word) : (s.setI v).mem = s.mem := rfl
@[simp] theorem State.setI_waitKey (v : Word) : (s.setI v).waitKey = s.waitKey := rfl
@[simp] theorem State.setI_status (v : Word) : (s.setI v).status = s.status := rfl
@[simp] theorem State.setI_fb (v : Word) : (s.setI v).fb = s.fb := rfl
@[simp] theorem State.setI_keys (v : Word) : (s.setI v).keys = s.keys := rfl
@[simp] theorem State.setI_draws (v : Word) : (s.setI v).draws = s.draws := rfl
@[simp] theorem State.setI_reports (v : Word) : (s.setI v).reports = s.reports := rfl
@[simp] theorem State.setI_getV (v : Word) (r : Reg) : (s.setI v).getV r = s.getV r := rfl
@[simp] theorem State.setI_peek (v : Word) (a : Nat) : (s.setI v).peek a = s.peek a := rfl

/-! ### `setPc` -/

@[simp] theorem State.setPc_cfg (v : Word) : (s.setPc v).cfg = s.cfg := rfl
@[simp] theorem State.setPc_V (v : Word) : (s.setPc v).V = s.V := rfl
@[simp] theorem State.setPc_I (v : Word) : (s.setPc v).I = s.I := rfl
@[simp] theorem State.setPc_pc (v : Word) : (s.setPc v).pc = v := rfl
@[simp] theorem State.setPc_DT (v : Word) : (s.setPc v).DT = s.DT := rfl
@[simp] theorem State.setPc_ST (v : Word) : (s.setPc v).ST = s.ST := rfl
@[simp] theorem State.setPc_stack (v : Word) : (s.setPc v).stack = s.stack := rfl
@[simp] theorem State.setPc_mem (v : Word) : (s.setPc v).mem = s.mem := rfl
@[simp] theorem State.setPc_waitKey (v : Word) : (s.setPc v).waitKey = s.waitKey := rfl
@[simp] theorem State.setPc_status (v : Word) : (s.setPc v).status = s.status := rfl
@[simp] theorem State.setPc_fb (v : Word) : (s.setPc v).fb = s.fb := rfl
@[simp] theorem State.setPc_keys (v : Word) : (s.setPc v).keys = s.keys := rfl
@[simp] theorem State.setPc_draws (v : Word) : (s.setPc v).draws = s.draws := rfl
@[simp] theorem State.setPc_reports (v : Word) : (s.setPc v).reports = s.reports := rfl
@[simp] theorem State.setPc_getV (v : Word) (r : Reg) : (s.setPc v).getV r = s.getV r := rfl
@[simp] theorem State.setPc_peek (v : Word) (a : Nat) : (s.setPc v).peek a = s.peek a := rfl

/-! ### `setDT` -/

@[simp] theorem State.setDT_cfg (v : Word) : (s.setDT v).cfg = s.cfg := rfl
@[simp] theorem State.setDT_V (v : Word) : (s.setDT v).V = s.V := rfl
@[simp] theorem State.setDT_I (v : Word) : (s.setDT v).I = s.I := rfl
@[simp] theorem State.setDT_pc (v : Word) : (s.setDT v).pc = s.pc := rfl
@[simp] theorem State.setDT_DT (v : Word) : (s.setDT v).DT = v := rfl
@[simp] theorem State.setDT_ST (v : Word) : (s.setDT v).ST = s.ST := rfl
@[simp] theorem State.setDT_stack (v : Word) : (s.setDT v).stack = s.stack := rfl
@[simp] theorem State.setDT_mem (v : Word) : (s.setDT v).mem = s.mem := rfl
@[simp] theorem State.setDT_waitKey (v : Word) : (s.setDT v).waitKey = s.waitKey := rfl
@[simp] theorem State.setDT_status (v : Word) : (s.setDT v).status = s.status := rfl
@[simp] theorem State.setDT_fb (v : Word) : (s.setDT v).fb = s.fb := rfl
@[simp] theorem State.setDT_keys (v : Word) : (s.setDT v).keys = s.keys := rfl
@[simp] theorem State.setDT_draws (v : Word) : (s.setDT v).draws = s.draws := rfl
@[simp] theorem State.setDT_reports (v : Word) : (s.setDT v).reports = s.reports := rfl
@[simp] theorem State.setDT_getV (v : Word) (r : Reg) : (s.setDT v).getV r = s.getV r := rfl
@[simp] theorem State.setDT_peek (v : Word) (a : Nat) : (s.setDT v).peek a = s.peek a := rfl

/-! ### `setST` -/

@[simp] theorem State.setST_cfg (v : Word) : (s.setST v).cfg = s.cfg := rfl
@[simp] theorem State.setST_V (v : Word) : (s.setST v).V = s.V := rfl
@[simp] theorem State.setST_I (v : Word) : (s.setST v).I = s.I := rfl
@[simp] theorem State.setST_pc (v : Word) : (s.setST v).pc = s.pc := rfl
@[simp] theorem State.setST_DT (v : Word) : (s.setST v).DT = s.DT := rfl
@[simp] theorem State.setST_ST (v : Word) : (s.setST v).ST = v := rfl
@[simp] theorem State.setST_stack (v : Word) : (s.setST v).stack = s.stack := rfl
@[simp] theorem State.setST_mem (v : Word) : (s.setST v).mem = s.mem := rfl
@[simp] theorem State.setST_waitKey (v : Word) : (s.setST v).waitKey = s.waitKey := rfl
@[simp] theorem State.setST_status (v : Word) : (s.setST v).status = s.status := rfl
@[simp] theorem State.setST_fb (v : Word) : (s.setST v).fb = s.fb := rfl
@[simp] theorem State.setST_keys (v : Word) : (s.setST v).keys = s.keys := rfl
@[simp] theorem State.setST_draws (v : Word) : (s.setST v).draws = s.draws := rfl
@[simp] theorem State.setST_reports (v : Word) : (s.setST v).reports = s.reports := rfl
@[simp] theorem State.setST_getV (v : Word) (r : Reg) : (s.setST v).getV r = s.getV r := rfl
@[simp] theorem State.setST_peek (v : Word) (a : Nat) : (s.setST v).peek a = s.peek a := rfl

/-! ### `setStack` -/

@[simp] theorem State.setStack_cfg (st : List Word) : (s.setStack st).cfg = s.cfg := rfl
@[simp] theorem State.setStack_V (st : List Word) : (s.setStack st).V = s.V := rfl
@[simp] theorem State.setStack_I (st : List Word) : (s.setStack st).I = s.I := rfl
@[simp] theorem State.setStack_pc (st : List Word) : (s.setStack st).pc = s.pc := rfl
@[simp] theorem State.setStack_DT (st : List Word) : (s.setStack st).DT = s.DT := rfl
@[simp] theorem State.setStack_ST (st : List Word) : (s.setStack st).ST = s.ST := rfl
@[simp] theorem State.setStack_stack (st : List Word) : (s.setStack st).stack = st := rfl
@[simp] theorem State.setStack_mem (st : List Word) : (s.setStack st).mem = s.mem := rfl
@[simp] theorem State.setStack_waitKey (st : List Word) : (s.setStack st).waitKey = s.waitKey := rfl
@[simp] theorem State.setStack_status (st : List Word) : (s.setStack st).status = s.status := rfl
@[simp] theorem State.setStack_fb (st : List Word) : (s.setStack st).fb = s.fb := rfl
@[simp] theorem State.setStack_keys (st : List Word) : (s.setStack st).keys = s.keys := rfl
@[simp] theorem State.setStack_draws (st : List Word) : (s.setStack st).draws = s.draws := rfl
@[simp] theorem State.setStack_reports (st : List Word) : (s.setStack st).reports = s.reports := rfl
@[simp] theorem State.setStack_getV (st : List Word) (r : Reg) : (s.setStack st).getV r = s.getV r := rfl
@[simp] theorem State.setStack_peek (st : List Word) (a : Nat) : (s.setStack st).peek a = s.peek a := rfl

/-! ### `setWaitKey` -/

@[simp] theorem State.setWaitKey_cfg (k : Option Key) : (s.setWaitKey k).cfg = s.cfg := rfl
@[simp] theorem State.setWaitKey_V (k : Option Key) : (s.setWaitKey k).V = s.V := rfl
@[simp] theorem State.setWaitKey_I (k : Option Key) : (s.setWaitKey k).I = s.I := rfl
@[simp] theorem State.setWaitKey_pc (k : Option Key) : (s.setWaitKey k).pc = s.pc := rfl
@[simp] theorem State.setWaitKey_DT (k : Option Key) : (s.setWaitKey k).DT = s.DT := rfl
@[simp] theorem State.setWaitKey_ST (k : Option Key) : (s.setWaitKey k).ST = s.ST := rfl
@[simp] theorem State.setWaitKey_stack (k : Option Key) : (s.setWaitKey k).stack = s.stack := rfl
@[simp] theorem State.setWaitKey_mem (k : Option Key) : (s.setWaitKey k).mem = s.mem := rfl
@[simp] theorem State.setWaitKey_waitKey (k : Option Key) : (s.setWaitKey k).waitKey = k := rfl
@[simp] theorem State.setWaitKey_status (k : Option Key) : (s.setWaitKey k).status = s.status := rfl
@[simp] theorem State.setWaitKey_fb (k : Option Key) : (s.setWaitKey k).fb = s.fb := rfl
@[simp] theorem State.setWaitKey_keys (k : Option Key) : (s.setWaitKey k).keys = s.keys := rfl
@[simp] theorem State.setWaitKey_draws (k : Option Key) : (s.setWaitKey k).draws = s.draws := rfl
@[simp] theorem State.setWaitKey_reports (k : Option Key) : (s.setWaitKey k).reports = s.reports := rfl
@[simp] theorem State.setWaitKey_getV (k : Option Key) (r : Reg) : (s.setWaitKey k).getV r = s.getV r := rfl
@[simp] theorem State.setWaitKey_peek (k : Option Key) (a : Nat) : (s.setWaitKey k).peek a = s.peek a := rfl

/-! ### `setFb` -/

@[simp] theorem State.setFb_cfg (g : Grid) : (s.setFb g).cfg = s.cfg := rfl
@[simp] theorem State.setFb_V (g : Grid) : (s.setFb g).V = s.V := rfl
@[simp] theorem State.setFb_I (g : Grid) : (s.setFb g).I = s.I := rfl
@[simp] theorem State.setFb_pc (g : Grid) : (s.setFb g).pc = s.pc := rfl
@[simp] theorem State.setFb_DT (g : Grid) : (s.setFb g).DT = s.DT := rfl
@[simp] theorem State.setFb_ST (g : Grid) : (s.setFb g).ST = s.ST := rfl
@[simp] theorem State.setFb_stack (g : Grid) : (s.setFb g).stack = s.stack := rfl
@[simp] theorem State.setFb_mem (g : Grid) : (s.setFb g).mem = s.mem := rfl
@[simp] theorem State.setFb_waitKey (g : Grid) : (s.setFb g).waitKey = s.waitKey := rfl
@[simp] theorem State.setFb_status (g : Grid) : (s.setFb g).status = s.status := rfl
@[simp] theorem State.setFb_fb (g : Grid) : (s.setFb g).fb = g := rfl
@[simp] theorem State.setFb_keys (g : Grid) : (s.setFb g).keys = s.keys := rfl
@[simp] theorem State.setFb_draws (g : Grid) : (s.setFb g).draws = s.draws := rfl
@[simp] theorem State.setFb_reports (g : Grid) : (s.setFb g).reports = s.reports := rfl
@[simp] theorem State.setFb_getV (g : Grid) (r : Reg) : (s.setFb g).getV r = s.getV r := rfl
@[simp] theorem State.setFb_peek (g : Grid) (a : Nat) : (s.setFb g).peek a = s.peek a := rfl

/-! ### `halt` -/

@[simp] theorem State.halt_cfg (c : Cause) (p : Word) (w : Option Word) : (s.halt c p w).cfg = s.cfg := rfl
@[simp] theorem State.halt_V (c : Cause) (p : Word) (w : Option Word) : (s.halt c p w).V = s.V := rfl
@[simp] theorem State.halt_I (c : Cause) (p : Word) (w : Option Word) : (s.halt c p w).I = s.I := rfl
@[simp] theorem State.halt_pc (c : Cause) (p : Word) (w : Option Word) : (s.halt c p w).pc = s.pc := rfl
@[simp] theorem State.halt_DT (c : Cause) (p : Word) (w : Option Word) : (s.halt c p w).DT = s.DT := rfl
@[simp] theorem State.halt_ST (c : Cause) (p : Word) (w : Option Word) : (s.halt c p w).ST = s.ST := rfl
@[simp] theorem State.halt_stack (c : Cause) (p : Word) (w : Option Word) : (s.halt c p w).stack = s.stack := rfl
@[simp] theorem State.halt_mem (c : Cause) (p : Word) (w : Option Word) : (s.halt c p w).mem = s.mem := rfl
@[simp] theorem State.halt_waitKey (c : Cause) (p : Word) (w : Option Word) : (s.halt c p w).waitKey = s.waitKey := rfl
@[simp] theorem State.halt_status (c : Cause) (p : Word) (w : Option Word) : (s.halt c p w).status = .halted c p w := rfl
@[simp] theorem State.halt_fb (c : Cause) (p : Word) (w : Option Word) : (s.halt c p w).fb = s.fb := rfl
@[simp] theorem State.halt_keys (c : Cause) (p : Word) (w : Option Word) : (s.halt c p w).keys = s.keys := rfl
@[simp] theorem State.halt_draws (c : Cause) (p : Word) (w : Option Word) : (s.halt c p w).draws = s.draws := rfl
@[simp] theorem State.halt_reports (c : Cause) (p : Word) (w : Option Word) : (s.halt c p w).reports = s.reports := rfl
@[simp] theorem State.halt_getV (c : Cause) (p : Word) (w : Option Word) (r : Reg) : (s.halt c p w).getV r = s.getV r := rfl
@[simp] theorem State.halt_peek (c : Cause) (p : Word) (w : Option Word) (a : Nat) : (s.halt c p w).peek a = s.peek a := rfl

/-! ### `countDraw` -/

@[simp] theorem State.countDraw_cfg : s.countDraw.cfg = s.cfg := rfl
@[simp] theorem State.countDraw_V : s.countDraw.V = s.V := rfl
@[simp] theorem State.countDraw_I : s.countDraw.I = s.I := rfl
@[simp] theorem State.countDraw_pc : s.countDraw.pc = s.pc := rfl
@[simp] theorem State.countDraw_DT : s.countDraw.DT = s.DT := rfl
@[simp] theorem State.countDraw_ST : s.countDraw.ST = s.ST := rfl
@[simp] theorem State.countDraw_stack : s.countDraw.stack = s.stack := rfl
@[simp] theorem State.countDraw_mem : s.countDraw.mem = s.mem := rfl
@[simp] theorem State.countDraw_waitKey : s.countDraw.waitKey = s.waitKey := rfl
@[simp] theorem State.countDraw_status : s.countDraw.status = s.status := rfl
@[simp] theorem State.countDraw_fb : s.countDraw.fb = s.fb := rfl
@[simp] theorem State.countDraw_keys : s.countDraw.keys = s.keys := rfl
@[simp] theorem State.countDraw_draws : s.countDraw.draws = s.draws + 1 := rfl
@[simp] theorem State.countDraw_reports : s.countDraw.reports = s.reports := rfl
@[simp] theorem State.countDraw_getV (r : Reg) : s.countDraw.getV r = s.getV r := rfl
@[simp] theorem State.countDraw_peek (a : Nat) : s.countDraw.peek a = s.peek a := rfl

/-! ### `report` -/

@[simp] theorem State.report_cfg (p w : Word) : (s.report p w).cfg = s.cfg := rfl
@[simp] theorem State.report_V (p w : Word) : (s.report p w).V = s.V := rfl
@[simp] theorem State.report_I (p w : Word) : (s.report p w).I = s.I := rfl
@[simp] theorem State.report_pc (p w : Word) : (s.report p w).pc = s.pc := rfl
@[simp] theorem State.report_DT (p w : Word) : (s.report p w).DT = s.DT := rfl
@[simp] theorem State.report_ST (p w : Word) : (s.report p w).ST = s.ST := rfl
@[simp] theorem State.report_stack (p w : Word) : (s.report p w).stack = s.stack := rfl
@[simp] theorem State.report_mem (p w : Word) : (s.report p w).mem = s.mem := rfl
@[simp] theorem State.report_waitKey (p w : Word) : (s.report p w).waitKey = s.waitKey := rfl
@[simp] theorem State.report_status (p w : Word) : (s.report p w).status = s.status := rfl
@[simp] theorem State.report_fb (p w : Word) : (s.report p w).fb = s.fb := rfl
@[simp] theorem State.report_keys (p w : Word) : (s.report p w).keys = s.keys := rfl
@[simp] theorem State.report_draws (p w : Word) : (s.report p w).draws = s.draws := rfl
@[simp] theorem State.report_reports (p w : Word) : (s.report p w).reports = s.reports ++ [⟨p, w⟩] := rfl
@[simp] theorem State.report_getV (p w : Word) (r : Reg) : (s.report p w).getV r = s.getV r := rfl
@[simp] theorem State.report_peek (p w : Word) (a : Nat) : (s.report p w).peek a = s.peek a := rfl

/-! ### `pollInput` -/

@[simp] theorem State.pollInput_cfg (ks : Vector Bool 16) : (s.pollInput ks).cfg = s.cfg := rfl
@[simp] theorem State.pollInput_V (ks : Vector Bool 16) : (s.pollInput ks).V = s.V := rfl
@[simp] theorem State.pollInput_I (ks : Vector Bool 16) : (s.pollInput ks).I = s.I := rfl
@[simp] theorem State.pollInput_pc (ks : Vector Bool 16) : (s.pollInput ks).pc = s.pc := rfl
@[simp] theorem State.pollInput_DT (ks : Vector Bool 16) : (s.pollInput ks).DT = s.DT := rfl
@[simp] theorem State.pollInput_ST (ks : Vector Bool 16) : (s.pollInput ks).ST = s.ST := rfl
@[simp] theorem State.pollInput_stack (ks : Vector Bool 16) : (s.pollInput ks).stack = s.stack := rfl
@[simp] theorem State.pollInput_mem (ks : Vector Bool 16) : (s.pollInput ks).mem = s.mem := rfl
@[simp] theorem State.pollInput_waitKey (ks : Vector Bool 16) : (s.pollInput ks).waitKey = s.waitKey := rfl
@[simp] theorem State.pollInput_status (ks : Vector Bool 16) : (s.pollInput ks).status = s.status := rfl
@[simp] theorem State.pollInput_fb (ks : Vector Bool 16) : (s.pollInput ks).fb = s.fb := rfl
@[simp] theorem State.pollInput_keys (ks : Vector Bool 16) : (s.pollInput ks).keys = ks := rfl
@[simp] theorem State.pollInput_draws (ks : Vector Bool 16) : (s.pollInput ks).draws = s.draws := rfl
@[simp] theorem State.pollInput_reports (ks : Vector Bool 16) : (s.pollInput ks).reports = s.reports := rfl
@[simp] theorem State.pollInput_getV (ks : Vector Bool 16) (r : Reg) : (s.pollInput ks).getV r = s.getV r := rfl
@[simp] theorem State.pollInput_peek (ks : Vector Bool 16) (a : Nat) : (s.pollInput ks).peek a = s.peek a := rfl

/-! ### `advancePc` -/

@[simp] theorem State.advancePc_cfg : s.advancePc.cfg = s.cfg := rfl
@[simp] theorem State.advancePc_V : s.advancePc.V = s.V := rfl
@[simp] theorem State.advancePc_I : s.advancePc.I = s.I := rfl
@[simp] theorem State.advancePc_pc : s.advancePc.pc = s.pc + 2 := rfl
@[simp] theorem State.advancePc_DT : s.advancePc.DT = s.DT := rfl
@[simp] theorem State.advancePc_ST : s.advancePc.ST = s.ST := rfl
@[simp] theorem State.advancePc_stack : s.advancePc.stack = s.stack := rfl
@[simp] theorem State.advancePc_mem : s.advancePc.mem = s.mem := rfl
@[simp] theorem State.advancePc_waitKey : s.advancePc.waitKey = s.waitKey := rfl
@[simp] theorem State.advancePc_status : s.advancePc.status = s.status := rfl
@[simp] theorem State.advancePc_fb : s.advancePc.fb = s.fb := rfl
@[simp] theorem State.advancePc_keys : s.advancePc.keys = s.keys := rfl
@[simp] theorem State.advancePc_draws : s.advancePc.draws = s.draws := rfl
@[simp] theorem State.advancePc_reports : s.advancePc.reports = s.reports := rfl
@[simp] theorem State.advancePc_getV (r : Reg) : s.advancePc.getV r = s.getV r := rfl
@[simp] theorem State.advancePc_peek (a : Nat) : s.advancePc.peek a = s.peek a := rfl

/-! ### `retreatPc` -/

@[simp] theorem State.retreatPc_cfg : s.retreatPc.cfg = s.cfg := rfl
@[simp] theorem State.retreatPc_V : s.retreatPc.V = s.V := rfl
@[simp] theorem State.retreatPc_I : s.retreatPc.I = s.I := rfl
@[simp] theorem State.retreatPc_pc : s.retreatPc.pc = s.pc - 2 := rfl
@[simp] theorem State.retreatPc_DT : s.retreatPc.DT = s.DT := rfl
@[simp] theorem State.retreatPc_ST : s.retreatPc.ST = s.ST := rfl
@[simp] theorem State.retreatPc_stack : s.retreatPc.stack = s.stack := rfl
@[simp] theorem State.retreatPc_mem : s.retreatPc.mem = s.mem := rfl
@[simp] theorem State.retreatPc_waitKey : s.retreatPc.waitKey = s.waitKey := rfl
@[simp] theorem State.retreatPc_status : s.retreatPc.status = s.status := rfl
@[simp] theorem State.retreatPc_fb : s.retreatPc.fb = s.fb := rfl
@[simp] theorem State.retreatPc_keys : s.retreatPc.keys = s.keys := rfl
@[simp] theorem State.retreatPc_draws : s.retreatPc.draws = s.draws := rfl
@[simp] theorem State.retreatPc_reports : s.retreatPc.reports = s.reports := rfl
@[simp] theorem State.retreatPc_getV (r : Reg) : s.retreatPc.getV r = s.getV r := rfl
@[simp] theorem State.retreatPc_peek (a : Nat) : s.retreatPc.peek a = s.peek a := rfl

/-! ### `raiseFatal` -/

@[simp] theorem State.raiseFatal_cfg (c : Cause) : (s.raiseFatal c).cfg = s.cfg := rfl
@[simp] theorem State.raiseFatal_V (c : Cause) : (s.raiseFatal c).V = s.V := rfl
@[simp] theorem State.raiseFatal_I (c : Cause) : (s.raiseFatal c).I = s.I := rfl
@[simp] theorem State.raiseFatal_pc (c : Cause) : (s.raiseFatal c).pc = s.pc := rfl
@[simp] theorem State.raiseFatal_DT (c : Cause) : (s.raiseFatal c).DT = s.DT := rfl
@[simp] theorem State.raiseFatal_ST (c : Cause) : (s.raiseFatal c).ST = s.ST := rfl
@[simp] theorem State.raiseFatal_stack (c : Cause) : (s.raiseFatal c).stack = s.stack := rfl
@[simp] theorem State.raiseFatal_mem (c : Cause) : (s.raiseFatal c).mem = s.mem := rfl
@[simp] theorem State.raiseFatal_waitKey (c : Cause) : (s.raiseFatal c).waitKey = s.waitKey := rfl
@[simp] theorem State.raiseFatal_status (c : Cause) : (s.raiseFatal c).status = .halted c s.currentAddr (some s.currentWord) := rfl
@[simp] theorem State.raiseFatal_fb (c : Cause) : (s.raiseFatal c).fb = s.fb := rfl
@[simp] theorem State.raiseFatal_keys (c : Cause) : (s.raiseFatal c).keys = s.keys := rfl
@[simp] theorem State.raiseFatal_draws (c : Cause) : (s.raiseFatal c).draws = s.draws := rfl
@[simp] theorem State.raiseFatal_reports (c : Cause) : (s.raiseFatal c).reports = s.reports := rfl
@[simp] theorem State.raiseFatal_getV (c : Cause) (r : Reg) : (s.raiseFatal c).getV r = s.getV r := rfl
@[simp] theorem State.raiseFatal_peek (c : Cause) (a : Nat) : (s.raiseFatal c).peek a = s.peek a := rfl

/-! ### `raiseFetchFatal` -/

@[simp] theorem State.raiseFetchFatal_cfg : s.raiseFetchFatal.cfg = s.cfg := rfl
@[simp] theorem State.raiseFetchFatal_V : s.raiseFetchFatal.V = s.V := rfl
@[simp] theorem State.raiseFetchFatal_I : s.raiseFetchFatal.I = s.I := rfl
@[simp] theorem State.raiseFetchFatal_pc : s.raiseFetchFatal.pc = s.pc := rfl
@[simp] theorem State.raiseFetchFatal_DT : s.raiseFetchFatal.DT = s.DT := rfl
@[simp] theorem State.raiseFetchFatal_ST : s.raiseFetchFatal.ST = s.ST := rfl
@[simp] theorem State.raiseFetchFatal_stack : s.raiseFetchFatal.stack = s.stack := rfl
@[simp] theorem State.raiseFetchFatal_mem : s.raiseFetchFatal.mem = s.mem := rfl
@[simp] theorem State.raiseFetchFatal_waitKey : s.raiseFetchFatal.waitKey = s.waitKey := rfl
@[simp] theorem State.raiseFetchFatal_status : s.raiseFetchFatal.status = .halted .fetchOutOfBounds s.pc none := rfl
@[simp] theorem State.raiseFetchFatal_fb : s.raiseFetchFatal.fb = s.fb := rfl
@[simp] theorem State.raiseFetchFatal_keys : s.raiseFetchFatal.keys = s.keys := rfl
@[simp] theorem State.raiseFetchFatal_draws : s.raiseFetchFatal.draws = s.draws := rfl
@[simp] theorem State.raiseFetchFatal_reports : s.raiseFetchFatal.reports = s.reports := rfl
@[simp] theorem State.raiseFetchFatal_getV (r : Reg) : s.raiseFetchFatal.getV r = s.getV r := rfl
@[simp] theorem State.raiseFetchFatal_peek (a : Nat) : s.raiseFetchFatal.peek a = s.peek a := rfl

/-! ### `setResultThenFlag` -/

@[simp] theorem State.setResultThenFlag_cfg (x : Reg) (r f : Byte) : (s.setResultThenFlag x r f).cfg = s.cfg := rfl
@[simp] theorem State.setResultThenFlag_V (x : Reg) (r f : Byte) : (s.setResultThenFlag x r f).V = (s.V.set x r).set VF f := rfl
@[simp] theorem State.setResultThenFlag_I (x : Reg) (r f : Byte) : (s.setResultThenFlag x r f).I = s.I := rfl
@[simp] theorem State.setResultThenFlag_pc (x : Reg) (r f : Byte) : (s.setResultThenFlag x r f).pc = s.pc := rfl
@[simp] theorem State.setResultThenFlag_DT (x : Reg) (r f : Byte) : (s.setResultThenFlag x r f).DT = s.DT := rfl
@[simp] theorem State.setResultThenFlag_ST (x : Reg) (r f : Byte) : (s.setResultThenFlag x r f).ST = s.ST := rfl
@[simp] theorem State.setResultThenFlag_stack (x : Reg) (r f : Byte) : (s.setResultThenFlag x r f).stack = s.stack := rfl
@[simp] theorem State.setResultThenFlag_mem (x : Reg) (r f : Byte) : (s.setResultThenFlag x r f).mem = s.mem := rfl
@[simp] theorem State.setResultThenFlag_waitKey (x : Reg) (r f : Byte) : (s.setResultThenFlag x r f).waitKey = s.waitKey := rfl
@[simp] theorem State.setResultThenFlag_status (x : Reg) (r f : Byte) : (s.setResultThenFlag x r f).status = s.status := rfl
@[simp] theorem State.setResultThenFlag_fb (x : Reg) (r f : Byte) : (s.setResultThenFlag x r f).fb = s.fb := rfl
@[simp] theorem State.setResultThenFlag_keys (x : Reg) (r f : Byte) : (s.setResultThenFlag x r f).keys = s.keys := rfl
@[simp] theorem State.setResultThenFlag_draws (x : Reg) (r f : Byte) : (s.setResultThenFlag x r f).draws = s.draws := rfl
@[simp] theorem State.setResultThenFlag_reports (x : Reg) (r f : Byte) : (s.setResultThenFlag x r f).reports = s.reports := rfl
@[simp] theorem State.setResultThenFlag_peek (x : Reg) (r f : Byte) (a : Nat) : (s.setResultThenFlag x r f).peek a = s.peek a := rfl

/-! ### `setFlagThenResult` -/

@[simp] theorem State.setFlagThenResult_cfg (x : Reg) (f r : Byte) : (s.setFlagThenResult x f r).cfg = s.cfg := rfl
@[simp] theorem State.setFlagThenResult_V (x : Reg) (f r : Byte) : (s.setFlagThenResult x f r).V = (s.V.set VF f).set x r := rfl
@[simp] theorem State.setFlagThenResult_I (x : Reg) (f r : Byte) : (s.setFlagThenResult x f r).I = s.I := rfl
@[simp] theorem State.setFlagThenResult_pc (x : Reg) (f r : Byte) : (s.setFlagThenResult x f r).pc = s.pc := rfl
@[simp] theorem State.setFlagThenResult_DT (x : Reg) (f r : Byte) : (s.setFlagThenResult x f r).DT = s.DT := rfl
@[simp] theorem State.setFlagThenResult_ST (x : Reg) (f r : Byte) : (s.setFlagThenResult x f r).ST = s.ST := rfl
@[simp] theorem State.setFlagThenResult_stack (x : Reg) (f r : Byte) : (s.setFlagThenResult x f r).stack = s.stack := rfl
@[simp] theorem State.setFlagThenResult_mem (x : Reg) (f r : Byte) : (s.setFlagThenResult x f r).mem = s.mem := rfl
@[simp] theorem State.setFlagThenResult_waitKey (x : Reg) (f r : Byte) : (s.setFlagThenResult x f r).waitKey = s.waitKey := rfl
@[simp] theorem State.setFlagThenResult_status (x : Reg) (f r : Byte) : (s.setFlagThenResult x f r).status = s.status := rfl
@[simp] theorem State.setFlagThenResult_fb (x : Reg) (f r : Byte) : (s.setFlagThenResult x f r).fb = s.fb := rfl
@[simp] theorem State.setFlagThenResult_keys (x : Reg) (f r : Byte) : (s.setFlagThenResult x f r).keys = s.keys := rfl
@[simp] theorem State.setFlagThenResult_draws (x : Reg) (f r : Byte) : (s.setFlagThenResult x f r).draws = s.draws := rfl
@[simp] theorem State.setFlagThenResult_reports (x : Reg) (f r : Byte) : (s.setFlagThenResult x f r).reports = s.reports := rfl
@[simp] theorem State.setFlagThenResult_peek (x : Reg) (f r : Byte) (a : Nat) : (s.setFlagThenResult x f r).peek a = s.peek a := rfl

/-! ### `resetWith` -/

@[simp] theorem State.resetWith_cfg (c : Config) : (State.resetWith c).cfg = c := rfl
@[simp] theorem State.resetWith_V (c : Config) : (State.resetWith c).V = Vector.replicate 16 0x00 := rfl
@[simp] theorem State.resetWith_I (c : Config) : (State.resetWith c).I = 0 := rfl
@[simp] theorem State.resetWith_pc (c : Config) : (State.resetWith c).pc = 0x200 := rfl
@[simp] theorem State.resetWith_DT (c : Config) : (State.resetWith c).DT = 0 := rfl
@[simp] theorem State.resetWith_ST (c : Config) : (State.resetWith c).ST = 0 := rfl
@[simp] theorem State.resetWith_stack (c : Config) : (State.resetWith c).stack = [] := rfl
@[simp] theorem State.resetWith_mem (c : Config) : (State.resetWith c).mem = [] := rfl
@[simp] theorem State.resetWith_waitKey (c : Config) : (State.resetWith c).waitKey = none := rfl
@[simp] theorem State.resetWith_status (c : Config) : (State.resetWith c).status = .running := rfl
@[simp] theorem State.resetWith_fb (c : Config) : (State.resetWith c).fb = [] := rfl
@[simp] theorem State.resetWith_keys (c : Config) : (State.resetWith c).keys = Vector.replicate 16 false := rfl
@[simp] theorem State.resetWith_draws (c : Config) : (State.resetWith c).draws = 0 := rfl
@[simp] theorem State.resetWith_reports (c : Config) : (State.resetWith c).reports = [] := rfl

/-! ### `skipIf` -/

theorem State.skipIf_true : s.skipIf true = s.advancePc := rfl

theorem State.skipIf_false : s.skipIf false = s := rfl

theorem State.skipIf_pc (b : Bool) : (s.skipIf b).pc = if b then s.pc + 2 else s.pc := by
  cases b <;> rfl

/-- A skip changes pc and nothing else. -/
theorem State.skipIf_eq_setPc (b : Bool) : s.skipIf b = s.setPc (if b then s.pc + 2 else s.pc) := by
  cases b <;> rfl

end Sys2Proof.Machine
end

