-- ==== Sys2Proof/Laws/Memory.lean ====
section
/-! SUPPORT. What the memory operations do: read after write, and the canonical form is kept. -/

namespace Sys2Proof.Machine

variable {cfg : Config} {m : Memory} {a b n : Nat} {v : Byte}

/-! ### Reading -/

@[simp] theorem Memory.read_nil : Memory.read cfg [] a = Memory.unlisted cfg a := rfl

theorem Memory.read_cons (c : Host.Cell) :
    Memory.read cfg (c :: m) a = if c.1 = a then c.2 else Memory.read cfg m a := rfl

/-- An address that no cell lists reads as `unlisted`. -/
theorem Memory.read_of_not_listed (h : ∀ c ∈ m, c.1 ≠ a) :
    Memory.read cfg m a = Memory.unlisted cfg a := by
  induction m with
  | nil => rfl
  | cons c m ih =>
    rw [Memory.read_cons, if_neg (h c (by simp))]
    exact ih fun d hd => h d (by simp [hd])

/-! ### Insert and erase -/

theorem Memory.read_insert : Memory.read cfg (Memory.insert a v m) b =
    if a = b then v else Memory.read cfg m b := by
  induction m with
  | nil => rfl
  | cons c m ih =>
    simp only [Memory.insert]
    split
    · next h => by_cases hb : a = b <;> simp_all [Memory.read_cons]
    · split
      · simp [Memory.read_cons]
      · next h _ =>
        simp only [Memory.read_cons, ih]
        by_cases hc : c.1 = b
        · have hab : a ≠ b := fun e => h (hc.trans e.symm)
          simp [hc, hab]
        · simp [hc]

theorem Memory.read_erase_ne (h : a ≠ b) :
    Memory.read cfg (Memory.erase a m) b = Memory.read cfg m b := by
  induction m with
  | nil => rfl
  | cons c m ih =>
    simp only [Memory.erase]
    split
    · next hc => simp [Memory.read_cons, hc, h]
    · simp [Memory.read_cons, ih]

theorem Memory.mem_erase {c : Host.Cell} (h : c ∈ Memory.erase a m) : c ∈ m := by
  induction m with
  | nil => exact h
  | cons d m ih =>
    simp only [Memory.erase] at h
    split at h
    · exact List.mem_cons_of_mem _ h
    · rcases List.mem_cons.1 h with rfl | h
      · exact List.mem_cons_self
      · exact List.mem_cons_of_mem _ (ih h)

theorem Memory.mem_insert {c : Host.Cell} (h : c ∈ Memory.insert a v m) : c = (a, v) ∨ c ∈ m := by
  induction m with
  | nil => exact Or.inl (by simpa [Memory.insert] using h)
  | cons d m ih =>
    simp only [Memory.insert] at h
    split at h
    · rcases List.mem_cons.1 h with h | h <;> simp [h]
    · split at h
      · rcases List.mem_cons.1 h with h | h
        · exact Or.inl h
        · exact Or.inr h
      · rcases List.mem_cons.1 h with rfl | h
        · simp
        · rcases ih h with h | h <;> simp [h]

theorem Memory.rising_erase (h : m.Pairwise (fun c d => c.1 < d.1)) :
    (Memory.erase a m).Pairwise (fun c d => c.1 < d.1) := by
  induction m with
  | nil => exact h
  | cons c m ih =>
    obtain ⟨hc, hm⟩ := List.pairwise_cons.1 h
    simp only [Memory.erase]
    split
    · exact hm
    · exact List.pairwise_cons.2 ⟨fun d hd => hc d (Memory.mem_erase hd), ih hm⟩

theorem Memory.rising_insert (h : m.Pairwise (fun c d => c.1 < d.1)) :
    (Memory.insert a v m).Pairwise (fun c d => c.1 < d.1) := by
  induction m with
  | nil => simp [Memory.insert]
  | cons c m ih =>
    obtain ⟨hc, hm⟩ := List.pairwise_cons.1 h
    simp only [Memory.insert]
    split
    · next he => exact List.pairwise_cons.2 ⟨fun d hd => he ▸ hc d hd, hm⟩
    · next hne =>
      split
      · next hlt =>
        refine List.pairwise_cons.2 ⟨fun d hd => ?_, h⟩
        rcases List.mem_cons.1 hd with rfl | hd
        · exact hlt
        · exact Nat.lt_trans hlt (hc d hd)
      · next hge =>
        refine List.pairwise_cons.2 ⟨fun d hd => ?_, ih hm⟩
        rcases Memory.mem_insert hd with rfl | hd
        · show c.1 < a
          omega
        · exact hc d hd

theorem Memory.not_listed_erase (h : m.Pairwise (fun c d => c.1 < d.1)) :
    ∀ c ∈ Memory.erase a m, c.1 ≠ a := by
  induction m with
  | nil => simp [Memory.erase]
  | cons c m ih =>
    obtain ⟨hc, hm⟩ := List.pairwise_cons.1 h
    simp only [Memory.erase]
    split
    · next he => exact fun d hd => by have := hc d hd; omega
    · next hne =>
      intro d hd
      rcases List.mem_cons.1 hd with rfl | hd
      · exact hne
      · exact ih hm d hd

/-! ### One byte written -/

/-- Read after write of one byte. -/
theorem Memory.read_write (h : Memory.wf cfg m) :
    Memory.read cfg (Memory.write cfg m a v) b = if a = b then v else Memory.read cfg m b := by
  unfold Memory.write
  split
  · next hv =>
    by_cases hab : a = b
    · subst hab
      rw [if_pos rfl, Memory.read_of_not_listed (Memory.not_listed_erase h.1), hv]
    · rw [if_neg hab, Memory.read_erase_ne hab]
  · exact Memory.read_insert

/-- Writing a byte keeps the canonical form. -/
theorem Memory.wf_write (h : Memory.wf cfg m) : Memory.wf cfg (Memory.write cfg m a v) := by
  unfold Memory.write
  split
  · exact ⟨Memory.rising_erase h.1, fun c hc => h.2 c (Memory.mem_erase hc)⟩
  · next hv =>
    refine ⟨Memory.rising_insert h.1, fun c hc => ?_⟩
    rcases Memory.mem_insert hc with rfl | hc
    · exact hv
    · exact h.2 c hc

/-- Writing a byte inside the address space lists no cell outside it. -/
theorem Memory.inSpace_write (ha : a < cfg.capacity) (h : Memory.inSpace cfg m) :
    Memory.inSpace cfg (Memory.write cfg m a v) := by
  unfold Memory.write
  split
  · exact fun c hc => h c (Memory.mem_erase hc)
  · intro c hc
    rcases Memory.mem_insert hc with rfl | hc
    · exact ha
    · exact h c hc

/-! ### Several bytes -/

@[simp] theorem Memory.length_readBytes : (Memory.readBytes cfg m a n).length = n := by
  induction n generalizing a with
  | zero => rfl
  | succ n ih => simp [Memory.readBytes, ih]

theorem Memory.getElem_readBytes {k : Nat} (hk : k < (Memory.readBytes cfg m a n).length) :
    (Memory.readBytes cfg m a n)[k] = Memory.read cfg m (a + k) := by
  induction n generalizing a k with
  | zero => simp at hk
  | succ n ih =>
    cases k with
    | zero => rfl
    | succ k =>
      simp only [Memory.readBytes, List.getElem_cons_succ]
      rw [ih, Nat.add_assoc, Nat.add_comm 1]

theorem Memory.wf_writeBytes {bs : List Byte} (h : Memory.wf cfg m) :
    Memory.wf cfg (Memory.writeBytes cfg m a bs) := by
  induction bs generalizing a m with
  | nil => exact h
  | cons b bs ih => exact ih (Memory.wf_write h)

theorem Memory.inSpace_writeBytes {bs : List Byte} (ha : a + bs.length ≤ cfg.capacity)
    (h : Memory.inSpace cfg m) : Memory.inSpace cfg (Memory.writeBytes cfg m a bs) := by
  induction bs generalizing a m with
  | nil => exact h
  | cons b bs ih =>
    simp only [List.length_cons] at ha
    exact ih (by omega) (Memory.inSpace_write (by omega) h)

/-- Read after a write of several bytes. -/
theorem Memory.read_writeBytes {bs : List Byte} (h : Memory.wf cfg m) :
    Memory.read cfg (Memory.writeBytes cfg m a bs) b =
      if a ≤ b then bs.getD (b - a) (Memory.read cfg m b) else Memory.read cfg m b := by
  induction bs generalizing a m with
  | nil => simp [Memory.writeBytes]
  | cons v bs ih =>
    rw [Memory.writeBytes, ih (Memory.wf_write h), Memory.read_write h]
    rcases Nat.lt_trichotomy a b with hab | rfl | hab
    · have h1 : b - a = b - (a + 1) + 1 := by omega
      simp [Nat.le_of_lt hab, Nat.succ_le_of_lt hab, Nat.ne_of_lt hab, h1]
    · simp
    · simp [Nat.not_le_of_lt hab, Nat.ne_of_gt hab, show ¬ a + 1 ≤ b by omega]

/-- Equal reads mean equal data: the canonical form of a memory is unique. -/
theorem Memory.ext_of_wf {m₁ m₂ : Memory} (h₁ : Memory.wf cfg m₁) (h₂ : Memory.wf cfg m₂)
    (h : ∀ a, Memory.read cfg m₁ a = Memory.read cfg m₂ a) : m₁ = m₂ := by
  induction m₁ generalizing m₂ with
  | nil =>
    cases m₂ with
    | nil => rfl
    | cons d m₂ =>
      have := h d.1
      simp only [Memory.read_nil, Memory.read_cons, if_true] at this
      exact absurd this.symm (h₂.2 d (by simp))
  | cons c m₁ ih =>
    cases m₂ with
    | nil =>
      have := h c.1
      simp only [Memory.read_nil, Memory.read_cons, if_true] at this
      exact absurd this (h₁.2 c (by simp))
    | cons d m₂ =>
      obtain ⟨hc, hm₁⟩ := List.pairwise_cons.1 h₁.1
      obtain ⟨hd, hm₂⟩ := List.pairwise_cons.1 h₂.1
      have fresh : ∀ {a : Nat} {x : Host.Cell} {m : Memory}, (∀ y ∈ m, x.1 < y.1) → a ≤ x.1 →
          Memory.read cfg m a = Memory.unlisted cfg a := fun hx ha =>
        Memory.read_of_not_listed fun y hy => by have := hx y hy; omega
      have hkey : c.1 = d.1 := by
        rcases Nat.lt_trichotomy c.1 d.1 with hlt | heq | hgt
        · have := h c.1
          rw [Memory.read_cons, if_pos rfl, Memory.read_cons, if_neg (by omega),
            fresh hd (Nat.le_of_lt hlt)] at this
          exact absurd this (h₁.2 c (by simp))
        · exact heq
        · have := h d.1
          rw [Memory.read_cons, if_neg (by omega), Memory.read_cons, if_pos rfl,
            fresh hc (Nat.le_of_lt hgt)] at this
          exact absurd this.symm (h₂.2 d (by simp))
      have hval : c.2 = d.2 := by
        have := h c.1
        rwa [Memory.read_cons, if_pos rfl, Memory.read_cons, if_pos hkey.symm] at this
      have hcd : c = d := Prod.ext hkey hval
      subst hcd
      congr 1
      refine ih ⟨hm₁, fun x hx => h₁.2 x (by simp [hx])⟩ ⟨hm₂, fun x hx => h₂.2 x (by simp [hx])⟩
        fun a => ?_
      have ha := h a
      simp only [Memory.read_cons] at ha
      by_cases hca : c.1 = a
      · rw [fresh hc (by omega), fresh hd (by omega)]
      · simpa [hca] using ha

/-! ### Through the state -/

/-- `memRead` answers exactly when the extent is in bounds (R203). -/
theorem State.memRead_eq (s : State) (addr n : Nat) :
    s.memRead addr n =
      if addr + n ≤ s.cfg.capacity then some (Memory.readBytes s.cfg s.mem addr n) else none := by
  simp [State.memRead, State.inBounds]

/-- `memWrite` answers exactly when the extent is in bounds (R204, R205). -/
theorem State.memWrite_eq (s : State) (addr : Nat) (bs : List Byte) :
    s.memWrite addr bs =
      if addr + bs.length ≤ s.cfg.capacity then
        some { s with mem := Memory.writeBytes s.cfg s.mem addr bs }
      else none := by
  simp [State.memWrite, State.inBounds]

/-- Everything `memWrite` can do when it answers. -/
theorem State.memWrite_some {s t : State} {addr : Nat} {bs : List Byte}
    (h : s.memWrite addr bs = some t) :
    addr + bs.length ≤ s.cfg.capacity ∧
      t = { s with mem := Memory.writeBytes s.cfg s.mem addr bs } := by
  rw [State.memWrite_eq] at h
  split at h
  · exact ⟨‹_›, (Option.some.inj h).symm⟩
  · cases h

end Sys2Proof.Machine
end

