-- ==== Sys2Proof/Laws/PerInstr.lean ====
section
/-! SUPPORT. Laws stated for every instruction, one lemma per constructor.
`RowOfEncoding`: the canonical word of an instruction is taken by the row of the opcode map that
carries the instruction's mnemonic (R306, R310); an unknown word is taken by none (R311). -/

namespace Sys2Proof.Laws

variable (op n : BitVec 4) (x y : Reg) (nn : Byte) (nnn : BitVec 12)

/-! ### The tested and the ignored bits of each format -/

theorem formatA_and_family : formatA op nnn &&& 0xF000 = place 12 op := by
  apply BitVec.eq_of_getLsbD_eq
  intro i hi
  interval_cases i <;> simp [formatA, place]

theorem formatXNN_and_family : formatXNN op x nn &&& 0xF000 = place 12 op := by
  apply BitVec.eq_of_getLsbD_eq
  intro i hi
  interval_cases i <;> simp [formatXNN, place]

theorem formatXNN_and_sub : formatXNN op x nn &&& 0xF0FF = place 12 op ||| place 0 nn := by
  apply BitVec.eq_of_getLsbD_eq
  intro i hi
  interval_cases i <;> simp [formatXNN, place]

theorem formatXYN_and_family : formatXYN op x y n &&& 0xF000 = place 12 op := by
  apply BitVec.eq_of_getLsbD_eq
  intro i hi
  interval_cases i <;> simp [formatXYN, place]

theorem formatXYN_and_sub : formatXYN op x y n &&& 0xF00F = place 12 op ||| place 0 n := by
  apply BitVec.eq_of_getLsbD_eq
  intro i hi
  interval_cases i <;> simp [formatXYN, place]

theorem formatXYN_and_low : formatXYN op x y n &&& 0x000F = place 0 n := by
  apply BitVec.eq_of_getLsbD_eq
  intro i hi
  interval_cases i <;> simp [formatXYN, place]

/-- A row takes a word that matches it and has every ignored bit zero. -/
theorem takes_of {r : OpcodeRow} {w : Word} (strict : Bool) (h : w &&& r.mask = r.bits)
    (h' : w &&& r.ignored = 0) : r.takes strict w = true := by
  simp [OpcodeRow.takes, h, h']

namespace RowOfEncoding

/-- The canonical word of the instruction is in the row of its mnemonic; an unknown word is in none. -/
def Statement (i : Instr) : Prop :=
  ∀ strict, WellFormed strict i = true →
    (∃ r ∈ opcodeRows, r.mnemonic = i.mnemonic ∧ r.takes strict (encode i) = true) ∨
    (i.mnemonic = "UNKNOWN" ∧ mapped strict (encode i) = false)

theorem of_row {i : Instr} (r : OpcodeRow) (hr : r ∈ opcodeRows) (hm : r.mnemonic = i.mnemonic)
    (h : encode i &&& r.mask = r.bits) (h' : encode i &&& r.ignored = 0) : Statement i :=
  fun strict _ => Or.inl ⟨r, hr, hm, takes_of strict h h'⟩

theorem cls : Statement .cls :=
  of_row ⟨"00E0", 0x00E0, 0xF0FF, 0x0F00⟩ (by decide) rfl
    (by decide) (by decide)

theorem ret : Statement .ret :=
  of_row ⟨"00EE", 0x00EE, 0xF0FF, 0x0F00⟩ (by decide) rfl
    (by decide) (by decide)

theorem jp (nnn : BitVec 12) : Statement (.jp nnn) :=
  of_row ⟨"1NNN", 0x1000, 0xF000, 0⟩ (by decide) rfl
    (by rw [encode, formatA_and_family]; rfl) BitVec.and_zero

theorem call (nnn : BitVec 12) : Statement (.call nnn) :=
  of_row ⟨"2NNN", 0x2000, 0xF000, 0⟩ (by decide) rfl
    (by rw [encode, formatA_and_family]; rfl) BitVec.and_zero

theorem seByte (x : Reg) (nn : Byte) : Statement (.seByte x nn) :=
  of_row ⟨"3XNN", 0x3000, 0xF000, 0⟩ (by decide) rfl
    (by rw [encode, formatXNN_and_family]; rfl) BitVec.and_zero

theorem sneByte (x : Reg) (nn : Byte) : Statement (.sneByte x nn) :=
  of_row ⟨"4XNN", 0x4000, 0xF000, 0⟩ (by decide) rfl
    (by rw [encode, formatXNN_and_family]; rfl) BitVec.and_zero

theorem seReg (x : Reg) (y : Reg) : Statement (.seReg x y) :=
  of_row ⟨"5XY0", 0x5000, 0xF000, 0x000F⟩ (by decide) rfl
    (by rw [encode, formatXYN_and_family]; rfl) (by rw [encode, formatXYN_and_low]; rfl)

theorem ldByte (x : Reg) (nn : Byte) : Statement (.ldByte x nn) :=
  of_row ⟨"6XNN", 0x6000, 0xF000, 0⟩ (by decide) rfl
    (by rw [encode, formatXNN_and_family]; rfl) BitVec.and_zero

theorem addByte (x : Reg) (nn : Byte) : Statement (.addByte x nn) :=
  of_row ⟨"7XNN", 0x7000, 0xF000, 0⟩ (by decide) rfl
    (by rw [encode, formatXNN_and_family]; rfl) BitVec.and_zero

theorem ldReg (x : Reg) (y : Reg) : Statement (.ldReg x y) :=
  of_row ⟨"8XY0", 0x8000, 0xF00F, 0⟩ (by decide) rfl
    (by rw [encode, formatXYN_and_sub]; rfl) BitVec.and_zero

theorem orReg (x : Reg) (y : Reg) : Statement (.orReg x y) :=
  of_row ⟨"8XY1", 0x8001, 0xF00F, 0⟩ (by decide) rfl
    (by rw [encode, formatXYN_and_sub]; rfl) BitVec.and_zero

theorem andReg (x : Reg) (y : Reg) : Statement (.andReg x y) :=
  of_row ⟨"8XY2", 0x8002, 0xF00F, 0⟩ (by decide) rfl
    (by rw [encode, formatXYN_and_sub]; rfl) BitVec.and_zero

theorem xorReg (x : Reg) (y : Reg) : Statement (.xorReg x y) :=
  of_row ⟨"8XY3", 0x8003, 0xF00F, 0⟩ (by decide) rfl
    (by rw [encode, formatXYN_and_sub]; rfl) BitVec.and_zero

theorem addReg (x : Reg) (y : Reg) : Statement (.addReg x y) :=
  of_row ⟨"8XY4", 0x8004, 0xF00F, 0⟩ (by decide) rfl
    (by rw [encode, formatXYN_and_sub]; rfl) BitVec.and_zero

theorem subReg (x : Reg) (y : Reg) : Statement (.subReg x y) :=
  of_row ⟨"8XY5", 0x8005, 0xF00F, 0⟩ (by decide) rfl
    (by rw [encode, formatXYN_and_sub]; rfl) BitVec.and_zero

theorem shr (x : Reg) (y : Reg) : Statement (.shr x y) :=
  of_row ⟨"8XY6", 0x8006, 0xF00F, 0⟩ (by decide) rfl
    (by rw [encode, formatXYN_and_sub]; rfl) BitVec.and_zero

theorem subnReg (x : Reg) (y : Reg) : Statement (.subnReg x y) :=
  of_row ⟨"8XY7", 0x8007, 0xF00F, 0⟩ (by decide) rfl
    (by rw [encode, formatXYN_and_sub]; rfl) BitVec.and_zero

theorem shl (x : Reg) (y : Reg) : Statement (.shl x y) :=
  of_row ⟨"8XYE", 0x800E, 0xF00F, 0⟩ (by decide) rfl
    (by rw [encode, formatXYN_and_sub]; rfl) BitVec.and_zero

theorem sneReg (x : Reg) (y : Reg) : Statement (.sneReg x y) :=
  of_row ⟨"9XY0", 0x9000, 0xF000, 0x000F⟩ (by decide) rfl
    (by rw [encode, formatXYN_and_family]; rfl) (by rw [encode, formatXYN_and_low]; rfl)

theorem ldI (nnn : BitVec 12) : Statement (.ldI nnn) :=
  of_row ⟨"ANNN", 0xA000, 0xF000, 0⟩ (by decide) rfl
    (by rw [encode, formatA_and_family]; rfl) BitVec.and_zero

theorem jpOffset (nnn : BitVec 12) : Statement (.jpOffset nnn) :=
  of_row ⟨"BNNN", 0xB000, 0xF000, 0⟩ (by decide) rfl
    (by rw [encode, formatA_and_family]; rfl) BitVec.and_zero

theorem rnd (x : Reg) (nn : Byte) : Statement (.rnd x nn) :=
  of_row ⟨"CXNN", 0xC000, 0xF000, 0⟩ (by decide) rfl
    (by rw [encode, formatXNN_and_family]; rfl) BitVec.and_zero

theorem drw (x : Reg) (y : Reg) (n : BitVec 4) : Statement (.drw x y n) :=
  of_row ⟨"DXYN", 0xD000, 0xF000, 0⟩ (by decide) rfl
    (by rw [encode, formatXYN_and_family]; rfl) BitVec.and_zero

theorem skp (x : Reg) : Statement (.skp x) :=
  of_row ⟨"EX9E", 0xE09E, 0xF0FF, 0⟩ (by decide) rfl
    (by rw [encode, formatXNN_and_sub]; rfl) BitVec.and_zero

theorem sknp (x : Reg) : Statement (.sknp x) :=
  of_row ⟨"EXA1", 0xE0A1, 0xF0FF, 0⟩ (by decide) rfl
    (by rw [encode, formatXNN_and_sub]; rfl) BitVec.and_zero

theorem ldFromDT (x : Reg) : Statement (.ldFromDT x) :=
  of_row ⟨"FX07", 0xF007, 0xF0FF, 0⟩ (by decide) rfl
    (by rw [encode, formatXNN_and_sub]; rfl) BitVec.and_zero

theorem ldKey (x : Reg) : Statement (.ldKey x) :=
  of_row ⟨"FX0A", 0xF00A, 0xF0FF, 0⟩ (by decide) rfl
    (by rw [encode, formatXNN_and_sub]; rfl) BitVec.and_zero

theorem ldDT (x : Reg) : Statement (.ldDT x) :=
  of_row ⟨"FX15", 0xF015, 0xF0FF, 0⟩ (by decide) rfl
    (by rw [encode, formatXNN_and_sub]; rfl) BitVec.and_zero

theorem ldST (x : Reg) : Statement (.ldST x) :=
  of_row ⟨"FX18", 0xF018, 0xF0FF, 0⟩ (by decide) rfl
    (by rw [encode, formatXNN_and_sub]; rfl) BitVec.and_zero

theorem addI (x : Reg) : Statement (.addI x) :=
  of_row ⟨"FX1E", 0xF01E, 0xF0FF, 0⟩ (by decide) rfl
    (by rw [encode, formatXNN_and_sub]; rfl) BitVec.and_zero

theorem ldGlyph (x : Reg) : Statement (.ldGlyph x) :=
  of_row ⟨"FX29", 0xF029, 0xF0FF, 0⟩ (by decide) rfl
    (by rw [encode, formatXNN_and_sub]; rfl) BitVec.and_zero

theorem ldBcd (x : Reg) : Statement (.ldBcd x) :=
  of_row ⟨"FX33", 0xF033, 0xF0FF, 0⟩ (by decide) rfl
    (by rw [encode, formatXNN_and_sub]; rfl) BitVec.and_zero

theorem storeRegs (x : Reg) : Statement (.storeRegs x) :=
  of_row ⟨"FX55", 0xF055, 0xF0FF, 0⟩ (by decide) rfl
    (by rw [encode, formatXNN_and_sub]; rfl) BitVec.and_zero

theorem loadRegs (x : Reg) : Statement (.loadRegs x) :=
  of_row ⟨"FX65", 0xF065, 0xF0FF, 0⟩ (by decide) rfl
    (by rw [encode, formatXNN_and_sub]; rfl) BitVec.and_zero

theorem unknown (w : Word) : Statement (.unknown w) := fun strict h =>
  Or.inr ⟨rfl, by simpa [WellFormed, encode] using h⟩

end RowOfEncoding

end Sys2Proof.Laws
end

