-- ==== Sys2Proof/Laws/Registers.lean ====
section
/-! SUPPORT. What register reads and writes, the stack operations and the operand forms do. -/

namespace Sys2Proof.Machine

variable (s : State)

/-! ### General registers -/

/-- Read after write of a register. -/
theorem State.getV_setV (x r : Reg) (b : Byte) :
    (s.setV x b).getV r = if r = x then b else s.getV r := by
  by_cases h : r = x
  · subst h
    simp [State.getV]
  · have : (x : Nat) ≠ r := fun e => h (Fin.ext e.symm)
    simp [State.getV, h, this]

@[simp] theorem State.getV_setV_same (x : Reg) (b : Byte) : (s.setV x b).getV x = b := by
  simp [State.getV_setV]

theorem State.getV_setV_ne {x r : Reg} (h : r ≠ x) (b : Byte) :
    (s.setV x b).getV r = s.getV r := by simp [State.getV_setV, h]

/-- The flag is written last, so VF holds the flag even when it is the destination (R408). -/
theorem State.getV_setResultThenFlag (x r : Reg) (res f : Byte) :
    (s.setResultThenFlag x res f).getV r = if r = VF then f else if r = x then res else s.getV r := by
  simp [State.setResultThenFlag, State.getV_setV]

/-- The result is written last, so VX holds the result even when it is VF (R408). -/
theorem State.getV_setFlagThenResult (x r : Reg) (f res : Byte) :
    (s.setFlagThenResult x f res).getV r = if r = x then res else if r = VF then f else s.getV r := by
  simp [State.setFlagThenResult, State.getV_setV]

/-! ### A list of registers -/

@[simp] theorem mem_regsThrough {x r : Reg} : r ∈ regsThrough x ↔ r ≤ x := by
  revert x r
  decide

@[simp] theorem length_regsThrough (x : Reg) : (regsThrough x).length = x.val + 1 := by
  revert x
  decide

/-- `setRegs` changes the general registers and nothing else. -/
theorem State.setRegs_eq (ps : List (Reg × Byte)) :
    s.setRegs ps = { s with V := (s.setRegs ps).V } := by
  induction ps generalizing s with
  | nil => rfl
  | cons p ps ih => exact ih (s.setV p.1 p.2)

@[simp] theorem State.setRegs_nil : s.setRegs [] = s := rfl

@[simp] theorem State.setRegs_cons (r : Reg) (b : Byte) (ps : List (Reg × Byte)) :
    s.setRegs ((r, b) :: ps) = (s.setV r b).setRegs ps := rfl

/-- A register that the list does not name keeps its value. -/
theorem State.getV_setRegs_of_not_mem {ps : List (Reg × Byte)} {r : Reg}
    (h : ∀ p ∈ ps, p.1 ≠ r) : (s.setRegs ps).getV r = s.getV r := by
  induction ps generalizing s with
  | nil => rfl
  | cons p ps ih =>
    rw [State.setRegs_cons, ih _ fun q hq => h q (by simp [hq]),
      State.getV_setV_ne s (Ne.symm (h p (by simp)))]

/-! ### The stack -/

/-- Everything `push` can do (R13, R116). -/
theorem State.push_eq (v : Word) :
    s.push v = if s.stack.length < s.cfg.stackDepth then some (s.setStack (s.stack ++ [v]))
      else none := rfl

theorem State.pop_of_nil (h : s.stack = []) : s.pop = none := by simp [State.pop, h]

/-- Popping takes the last value pushed (R13). -/
theorem State.pop_of_concat {st : List Word} {v : Word} (h : s.stack = st ++ [v]) :
    s.pop = some (v, s.setStack st) := by simp [State.pop, h]

/-- Everything `pop` can do when it answers. -/
theorem State.pop_some {t : State} {v : Word} (h : s.pop = some (v, t)) :
    s.stack = s.stack.dropLast ++ [v] ∧ t = s.setStack s.stack.dropLast := by
  unfold State.pop at h
  split at h
  · next u hu =>
    obtain ⟨rfl, rfl⟩ := Prod.mk.inj (Option.some.inj h)
    exact ⟨(List.dropLast_append_getLast? u hu).symm, rfl⟩
  · cases h

/-! ### Operand forms -/

/-- VX as a hex digit: its value when it is at most 15 (R511, R554). -/
theorem State.hexOperand_eq_some {x : Reg} {d : Fin 16} :
    s.hexOperand x = some d ↔ (s.getV x).toNat = d.val := by
  unfold State.hexOperand
  split
  · next h => simp [Fin.ext_iff]
  · next h =>
    simp only [reduceCtorEq, false_iff]
    exact fun e => h (e ▸ d.isLt)

theorem State.hexOperand_eq_none {x : Reg} : s.hexOperand x = none ↔ 15 < (s.getV x).toNat := by
  unfold State.hexOperand
  split
  · next h => simp; omega
  · next h => simp; omega

/-! ### The key port -/

/-- The lowest-numbered key held (R560, D21). -/
theorem State.lowestHeld_eq_some {k : Key} :
    s.lowestHeld = some k ↔ s.keyPressed k = true ∧ ∀ j < k, s.keyPressed j = false := by
  unfold State.lowestHeld
  rw [List.find?_eq_some_iff_getElem]
  refine and_congr_right fun _ => ⟨?_, fun h => ⟨k.val, by simp, by simp, fun j hj => ?_⟩⟩
  · rintro ⟨i, hi, rfl, h⟩ j hj
    have hji : j.val < i := by simpa [Fin.lt_def] using hj
    simpa using h j.val hji
  · simpa using h ⟨j, by omega⟩ hj

theorem State.lowestHeld_eq_none : s.lowestHeld = none ↔ ∀ k, s.keyPressed k = false := by
  simp [State.lowestHeld]

/-! ### Fetch and the current instruction -/

/-- `fetch` answers exactly when both bytes are in memory (R217, R401). -/
theorem State.fetch_eq : s.fetch =
    if s.pc.toNat + 1 < s.cfg.capacity then some (s.wordAt s.pc.toNat) else none := rfl

/-- After the pc advance, the current address is the address fetched from. -/
@[simp] theorem State.currentAddr_advancePc : s.advancePc.currentAddr = s.pc := by
  simp [State.currentAddr]

/-- After the pc advance, the current word is the word fetched. -/
@[simp] theorem State.currentWord_advancePc : s.advancePc.currentWord = s.wordAt s.pc.toNat := by
  simp [State.currentWord, State.wordAt]

end Sys2Proof.Machine
end

