-- ==== Sys2Proof/Laws/Step.lean ====
section
/-! SUPPORT. Everything a step can do, said once; frames; and what each meaning of `exec` is over the
shared operations. -/

namespace Sys2Proof.Machine

variable {s t u : State}

/-! ### The word at an address -/

/-- `WordAt` says what `wordAt` reads. -/
theorem State.wordAt_iff {a : Nat} {w : Word} : s.WordAt a w ↔ s.wordAt a = w := by
  unfold State.WordAt State.wordAt
  rw [← toNat_wordOfBytes, ← BitVec.toNat_inj, eq_comm]

theorem State.fetch_of_wordAt {w : Word} (h : s.CanFetch) (hw : s.WordAt s.pc.toNat w) :
    s.fetch = some w := by
  rw [State.fetch_eq, if_pos h.2, State.wordAt_iff.1 hw]

theorem State.fetch_of_ge (h : s.cfg.capacity ≤ s.pc.toNat + 1) : s.fetch = none := by
  rw [State.fetch_eq, if_neg (by omega)]

/-! ### The step -/

theorem step_of_halted {c : Cause} {p : Word} {w : Option Word} (h : s.status = .halted c p w) :
    step s = .fault (.halted c p w) := by simp [step, h]

theorem step_of_fetch_none (h : s.Running) (hf : s.fetch = none) :
    step s = .next s.raiseFetchFatal := by
  unfold step
  simp only [h, hf]

theorem step_of_fetch {w : Word} (h : s.Running) (hf : s.fetch = some w) :
    step s = exec (decode s.cfg.strictDecode w) s.advancePc := by
  unfold step
  simp only [h, hf]

/-- Everything a step can do when it answers a next state. -/
theorem step_cases (h : step s = .next t) : s.Running ∧
    ((s.fetch = none ∧ t = s.raiseFetchFatal) ∨
      ∃ w, s.fetch = some w ∧ exec (decode s.cfg.strictDecode w) s.advancePc = .next t) := by
  cases hs : s.status with
  | halted c p w => rw [step_of_halted hs] at h; cases h
  | running =>
    refine ⟨hs, ?_⟩
    cases hf : s.fetch with
    | none =>
      rw [step_of_fetch_none hs hf] at h
      exact Or.inl ⟨rfl, by cases h; rfl⟩
    | some w =>
      rw [step_of_fetch hs hf] at h
      exact Or.inr ⟨w, rfl, h⟩

/-! ### Frames -/

theorem OnlyChanges.refl (may : Part → Prop) (s : State) : OnlyChanges may s s :=
  fun p _ => by cases p <;> rfl

theorem OnlyChanges.mono {may may' : Part → Prop} (h : OnlyChanges may s t)
    (hm : ∀ p, may p → may' p) : OnlyChanges may' s t :=
  fun p hp => h p fun hq => hp (hm p hq)

theorem OnlyChanges.trans {may : Part → Prop} (h : OnlyChanges may s t)
    (h' : OnlyChanges may t u) : OnlyChanges may s u := by
  intro p hp
  have h1 := h p hp
  have h2 := h' p hp
  cases p <;> exact Eq.trans h2 h1

theorem setPc_onlyChanges (v : Word) : OnlyChanges (· ∈ [Part.pc]) s (s.setPc v) := by
  intro p hp
  cases p <;> first | rfl | simp at hp

theorem setI_onlyChanges (v : Word) : OnlyChanges (· ∈ [Part.I]) s (s.setI v) := by
  intro p hp
  cases p <;> first | rfl | simp at hp

theorem setFb_onlyChanges (g : Grid) : OnlyChanges (· ∈ [Part.fb]) s (s.setFb g) := by
  intro p hp
  cases p <;> first | rfl | simp at hp

theorem halt_onlyChanges (c : Cause) (p : Word) (w : Option Word) :
    OnlyChanges (· ∈ [Part.status]) s (s.halt c p w) := by
  intro q hq
  cases q <;> first | rfl | simp at hq

theorem setV_onlyChanges (x : Reg) (b : Byte) : OnlyChanges (· ∈ [Part.V x]) s (s.setV x b) := by
  intro p hp
  cases p with
  | V r => exact State.getV_setV_ne s (by simpa using hp) b
  | _ => rfl

/-- A byte outside the stored extent reads as before, and nothing else changes. -/
theorem memWrite_onlyChanges {addr : Nat} {bs : List Byte} (hw : Memory.wf s.cfg s.mem)
    (h : s.memWrite addr bs = some t) :
    OnlyChanges (fun p => ∃ k < bs.length, p = .byte (addr + k)) s t := by
  obtain ⟨-, rfl⟩ := State.memWrite_some h
  intro p hp
  cases p with
  | byte a =>
    simp only [Part.Same, State.peek, Memory.read_writeBytes hw]
    split
    · next ha =>
      have : bs.length ≤ a - addr := by
        by_contra hlt
        exact hp ⟨a - addr, by omega, by congr 1; omega⟩
      rw [List.getD_eq_default _ _ this]
    · rfl
  | _ => rfl

/-- A meaning that raises a fatal error halts the block with its cause. -/
theorem haltsWith_of_raiseFatal {i : Instr} {c : Cause} (h : exec i s = .next (s.raiseFatal c)) :
    HaltsWith c i s :=
  ⟨_, s.currentWord, h, State.wordAt_iff.2 rfl, rfl, halt_onlyChanges _ _ _⟩

/-! ### The meanings -/

theorem exec_cls : exec .cls s = .next (s.setFb []) := rfl

theorem exec_ret_of_nil (h : s.stack = []) : exec .ret s = .next (s.raiseFatal .stackUnderflow) := by
  simp [exec, execRet, State.pop_of_nil s h]

theorem exec_ret_of_concat {st : List Word} {v : Word} (h : s.stack = st ++ [v]) :
    exec .ret s = .next ((s.setStack st).setPc v) := by
  simp [exec, execRet, State.pop_of_concat s h]

theorem exec_jp (nnn : BitVec 12) : exec (.jp nnn) s = .next (s.setPc (addrOperand nnn)) := rfl

theorem exec_call_of_lt {nnn : BitVec 12} (h : s.stack.length < s.cfg.stackDepth) :
    exec (.call nnn) s = .next ((s.setStack (s.stack ++ [s.pc])).setPc (addrOperand nnn)) := by
  simp [exec, execCall, State.push_eq, h]

theorem exec_call_of_ge {nnn : BitVec 12} (h : s.cfg.stackDepth ≤ s.stack.length) :
    exec (.call nnn) s = .next (s.raiseFatal .stackOverflow) := by
  simp [exec, execCall, State.push_eq, Nat.not_lt.2 h]

theorem exec_drw_of_le {x y : Reg} {n : BitVec 4} (h : s.I.toNat + n.toNat ≤ s.cfg.capacity) :
    exec (.drw x y n) s = .next
      ((s.setFb (drawSprite s.cfg s.fb (Memory.readBytes s.cfg s.mem s.I.toNat n.toNat)
          (s.getV x) (s.getV y)).1).setV VF
        (flagByte (drawSprite s.cfg s.fb (Memory.readBytes s.cfg s.mem s.I.toNat n.toNat)
          (s.getV x) (s.getV y)).2)) := by
  simp [exec, execDrw, State.memRead_eq, h]

theorem exec_drw_of_gt {x y : Reg} {n : BitVec 4} (h : s.cfg.capacity < s.I.toNat + n.toNat) :
    exec (.drw x y n) s = .next (s.raiseFatal .memoryOutOfBounds) := by
  simp [exec, execDrw, State.memRead_eq, Nat.not_le.2 h]

theorem exec_ldBcd_of_le {x : Reg} (h : s.I.toNat + 3 ≤ s.cfg.capacity) :
    exec (.ldBcd x) s = .next
      { s with mem := Memory.writeBytes s.cfg s.mem s.I.toNat (bcdDigits (s.getV x)) } := by
  simp [exec, execLdBcd, State.memWrite_eq, bcdDigits, h]

theorem exec_ldBcd_of_gt {x : Reg} (h : s.cfg.capacity < s.I.toNat + 3) :
    exec (.ldBcd x) s = .next (s.raiseFatal .memoryOutOfBounds) := by
  simp [exec, execLdBcd, State.memWrite_eq, bcdDigits, Nat.not_le.2 h]

theorem exec_storeRegs_of_le {x : Reg} (h : s.I.toNat + (x.val + 1) ≤ s.cfg.capacity) :
    exec (.storeRegs x) s = .next
      { s with mem := Memory.writeBytes s.cfg s.mem s.I.toNat ((regsThrough x).map s.getV) } := by
  simp [exec, execStoreRegs, State.memWrite_eq, h]

theorem exec_storeRegs_of_gt {x : Reg} (h : s.cfg.capacity < s.I.toNat + (x.val + 1)) :
    exec (.storeRegs x) s = .next (s.raiseFatal .memoryOutOfBounds) := by
  simp [exec, execStoreRegs, State.memWrite_eq, Nat.not_le.2 h]

theorem exec_loadRegs_of_le {x : Reg} (h : s.I.toNat + (x.val + 1) ≤ s.cfg.capacity) :
    exec (.loadRegs x) s = .next (s.setRegs ((regsThrough x).zip
      (Memory.readBytes s.cfg s.mem s.I.toNat (x.val + 1)))) := by
  simp [exec, execLoadRegs, State.memRead_eq, h]

theorem exec_loadRegs_of_gt {x : Reg} (h : s.cfg.capacity < s.I.toNat + (x.val + 1)) :
    exec (.loadRegs x) s = .next (s.raiseFatal .memoryOutOfBounds) := by
  simp [exec, execLoadRegs, State.memRead_eq, Nat.not_le.2 h]

theorem exec_ldGlyph_of_digit {x : Reg} {d : Fin 16} (h : (s.getV x).toNat = d.val) :
    exec (.ldGlyph x) s = .next (s.setI (glyphAddr d)) := by
  simp [exec, execLdGlyph, (State.hexOperand_eq_some s).2 h]

theorem exec_ldGlyph_of_gt {x : Reg} (h : 15 < (s.getV x).toNat) :
    exec (.ldGlyph x) s = .next (s.raiseFatal .digitOutOfRange) := by
  simp [exec, execLdGlyph, (State.hexOperand_eq_none s).2 h]

theorem exec_skp_of_key {x : Reg} {k : Key} (h : (s.getV x).toNat = k.val) :
    exec (.skp x) s = .next (s.skipIf (s.keyPressed k)) := by
  simp [exec, execSkp, (State.hexOperand_eq_some s).2 h]

theorem exec_skp_of_gt {x : Reg} (h : 15 < (s.getV x).toNat) :
    exec (.skp x) s = .next (s.raiseFatal .keyOutOfRange) := by
  simp [exec, execSkp, (State.hexOperand_eq_none s).2 h]

theorem exec_sknp_of_key {x : Reg} {k : Key} (h : (s.getV x).toNat = k.val) :
    exec (.sknp x) s = .next (s.skipIf (!s.keyPressed k)) := by
  simp [exec, execSknp, (State.hexOperand_eq_some s).2 h]

theorem exec_sknp_of_gt {x : Reg} (h : 15 < (s.getV x).toNat) :
    exec (.sknp x) s = .next (s.raiseFatal .keyOutOfRange) := by
  simp [exec, execSknp, (State.hexOperand_eq_none s).2 h]

theorem exec_ldKey_of_none {x : Reg} (h : s.waitKey = none) :
    exec (.ldKey x) s = .next (s.setWaitKey s.lowestHeld).retreatPc := by
  simp [exec, execLdKey, h]

theorem exec_ldKey_of_held {x : Reg} {k : Key} (h : s.waitKey = some k)
    (hk : s.keyPressed k = true) : exec (.ldKey x) s = .next s.retreatPc := by
  simp [exec, execLdKey, h, hk]

theorem exec_ldKey_of_released {x : Reg} {k : Key} (h : s.waitKey = some k)
    (hk : s.keyPressed k = false) :
    exec (.ldKey x) s = .next ((s.setV x (keyCode k)).setWaitKey none) := by
  simp [exec, execLdKey, h, hk]

theorem exec_unknown (w : Word) : exec (.unknown w) s = .next (s.report s.currentAddr w) := rfl

end Sys2Proof.Machine
end

