-- ==== Sys2Proof/Tests/Slice0.lean ====
section
/-! SUPPORT. Tests, each of one step or one operation. Expected results are the vectors of
spec/95_test_vectors.md (named in each comment) or the worked examples of the instruction rules, never
the model's own answers. After them, a state and operands that meet the hypotheses of each statement
of Certificates/Slice0/Obligations.lean that has any. -/

namespace Sys2Proof.Tests

open Sys2Proof.Machine

/-- The reset state: the vectors' start state. -/
def base : State := State.reset

/-- The state after one step of the given word, stored at pc. -/
def after (s : State) (w : Nat) : Option State :=
  match step (s.withFetchWord 16 w) with
  | .next t => some t
  | .fault _ => none
  | .refused _ => none

/-- The state with `LEGACY_SHIFT` true. -/
def legacyShift (s : State) : State := { s with cfg := { s.cfg with legacyShift := true } }

/-- The state with `LEGACY_JUMP_OFFSET` false. -/
def modernJump (s : State) : State := { s with cfg := { s.cfg with legacyJumpOffset := false } }

/-- The state with `STRICT_DECODE` true. -/
def strictDecode (s : State) : State := { s with cfg := { s.cfg with strictDecode := true } }

/-- The state with these keys held and no other. -/
def holding (s : State) (ks : List Key) : State :=
  s.pollInput (ks.foldl (fun (v : Vector Bool 16) (k : Key) => v.set k true) (Vector.replicate 16 false))

/-- The state with bytes stored from an address up. -/
def storing (s : State) (a : Nat) (bs : List Byte) : State :=
  { s with mem := Memory.writeBytes s.cfg s.mem a bs }

/-! ### WellFormed smoke: an ill-formed term for its one check -/

/-- R311: a word that a row takes is no unknown instruction. -/
theorem test_wellFormed_refuses_mapped_unknown : WellFormed false (.unknown 0x00E0) = false := by
  decide

/-- R306, R311: 0x03E0 is CLS by default, and unknown only under `STRICT_DECODE`. -/
theorem test_wellFormed_strict_unknown :
    WellFormed false (.unknown 0x03E0) = false ∧ WellFormed true (.unknown 0x03E0) = true := by
  decide

/-! ### Decode: every constructor, by a word written out from R302 and R310 -/

/-- Families 0 to 3 (R310 rows 1 to 5). -/
theorem test_decode_rows_1_to_5 :
    decode false 0b0000_0000_1110_0000 = .cls ∧ decode false 0b0000_0000_1110_1110 = .ret ∧
    decode false 0b0001_0010_0100_1110 = .jp 0x24E ∧
    decode false 0b0010_1010_1011_1100 = .call 0xABC ∧
    decode false 0b0011_1010_0000_0010 = .seByte 0xA 0x02 := by decide

/-- Families 4 to 7 (R310 rows 6 to 9). -/
theorem test_decode_rows_6_to_9 :
    decode false 0b0100_0011_0001_0000 = .sneByte 3 0x10 ∧
    decode false 0b0101_0001_0010_0000 = .seReg 1 2 ∧
    decode false 0b0110_1010_0101_1100 = .ldByte 0xA 0x5C ∧
    decode false 0b0111_0001_0000_0010 = .addByte 1 0x02 := by decide

/-- Family 8 (R310 rows 10 to 18). -/
theorem test_decode_rows_10_to_18 :
    decode false 0b1000_0001_0010_0000 = .ldReg 1 2 ∧
    decode false 0b1000_0001_0010_0001 = .orReg 1 2 ∧
    decode false 0b1000_0001_0010_0010 = .andReg 1 2 ∧
    decode false 0b1000_0001_0010_0011 = .xorReg 1 2 ∧
    decode false 0b1000_1010_1011_0100 = .addReg 0xA 0xB ∧
    decode false 0b1000_0001_0010_0101 = .subReg 1 2 ∧
    decode false 0b1000_0001_0010_0110 = .shr 1 2 ∧
    decode false 0b1000_0001_0010_0111 = .subnReg 1 2 ∧
    decode false 0b1000_0001_0010_1110 = .shl 1 2 := by decide

/-- Families 9 to E (R310 rows 19 to 25). -/
theorem test_decode_rows_19_to_25 :
    decode false 0b1001_0001_0010_0000 = .sneReg 1 2 ∧
    decode false 0b1010_0001_0010_0011 = .ldI 0x123 ∧
    decode false 0b1011_1111_1111_1111 = .jpOffset 0xFFF ∧
    decode false 0b1100_0011_0000_1111 = .rnd 3 0x0F ∧
    decode false 0b1101_1010_1011_1111 = .drw 0xA 0xB 0xF ∧
    decode false 0b1110_0001_1001_1110 = .skp 1 ∧
    decode false 0b1110_0001_1010_0001 = .sknp 1 := by decide

/-- Family F (R310 rows 26 to 34). -/
theorem test_decode_rows_26_to_34 :
    decode false 0b1111_0011_0000_0111 = .ldFromDT 3 ∧
    decode false 0b1111_0011_0000_1010 = .ldKey 3 ∧
    decode false 0b1111_0011_0001_0101 = .ldDT 3 ∧
    decode false 0b1111_0011_0001_1000 = .ldST 3 ∧
    decode false 0b1111_0011_0001_1110 = .addI 3 ∧
    decode false 0b1111_0011_0010_1001 = .ldGlyph 3 ∧
    decode false 0b1111_0011_0011_0011 = .ldBcd 3 ∧
    decode false 0b1111_0011_0101_0101 = .storeRegs 3 ∧
    decode false 0b1111_0011_0110_0101 = .loadRegs 3 := by decide

/-- T-E3, T-E4, T-E7, T-E12, T-E14, T-E15: unknown words. -/
theorem test_decode_unknown :
    decode false 0x0000 = .unknown 0x0000 ∧ decode false 0x0123 = .unknown 0x0123 ∧
    decode false 0x812F = .unknown 0x812F ∧ decode false 0xE19F = .unknown 0xE19F ∧
    decode false 0xF166 = .unknown 0xF166 ∧ decode false 0xFFFF = .unknown 0xFFFF := by decide

/-- T-E5, T-E6: the ignored bits, and `STRICT_DECODE`. -/
theorem test_decode_ignored_bits :
    decode false 0x03E0 = .cls ∧ decode true 0x03E0 = .unknown 0x03E0 ∧
    decode false 0x5121 = .seReg 1 2 ∧ decode true 0x5121 = .unknown 0x5121 := by decide

/-- W1: the views of 0x124E. -/
theorem test_views :
    addr12 0x124E = 0x24E ∧ nibble 0x124E 3 = 0x1 ∧ nibble 0x124E 2 = 0x2 ∧
    nibble 0x124E 1 = 0x4 ∧ nibble 0x124E 0 = 0xE ∧ byteOf 0x124E 0 = 0x4E ∧
    byteOf 0x124E 1 = 0x12 := by decide

/-- R300: one byte is no instruction. -/
theorem test_decodeBytes_truncated : decodeBytes false [0x12] = .error (.truncated 1) := by rfl

/-- The host's table words: the word is numbered with bit 0 the least significant. -/
theorem test_decodeTableWord : decodeTableWord 16 0x8AB4 = some (.addReg 0xA 0xB) := by decide

/-! ### Load and reset -/

/-- W3 and R212: glyph 0 at 0x050, and the addresses of glyphs 0, 1, A and F. -/
theorem test_reset_font :
    Memory.readBytes base.cfg base.mem 0x050 5 = [0xF0, 0x90, 0x90, 0x90, 0xF0] ∧
    glyphAddr 0 = 0x050 ∧ glyphAddr 1 = 0x055 ∧ glyphAddr 0xA = 0x082 ∧ glyphAddr 0xF = 0x09B := by
  decide

/-- T-L4, W5: a loaded program is fetched big-endian. -/
theorem test_load_then_fetch :
    (match load Config.standard [0x12, 0x4E] with
      | .ok s => s.fetch
      | .error _ => none) = some 0x124E := by decide

/-! ### The step -/

/-- T-S1: the last legal fetch. -/
theorem test_step_last_fetch :
    (after (base.setPc 0x0FFE) 0x602A).map (fun t => (t.getV 0, t.pc)) = some (0x2A, 0x1000) := by
  decide

/-- T-S2: a fetch at 0x0FFF halts the block, and nothing is reported. -/
theorem test_step_fetch_fault :
    (match step (base.setPc 0x0FFF) with
      | .next t => some (t.status, t.pc, t.reports)
      | .fault _ => none
      | .refused _ => none) = some (.halted .fetchOutOfBounds 0x0FFF none, 0x0FFF, []) := by decide

/-- T-S4: odd pc is legal. -/
theorem test_step_odd_pc :
    (after (base.setPc 0x0201) 0x6A07).map (fun t => (t.getV 0xA, t.pc)) = some (0x07, 0x0203) := by
  decide

/-- R400: pc wraps when the last word of a 64 KiB memory has been fetched. -/
theorem test_step_pc_wraps :
    (after { base with cfg := { base.cfg with capacity := 0x10000 }, pc := 0xFFFE } 0x6A07).map
      (fun t => t.pc) = some 0x0000 := by decide

/-- T-S5: a halted block does nothing on `step()` and `decay(d)`. -/
theorem test_step_halted :
    ((base.setDT 0x0500).halt .stackUnderflow 0x200 (some 0x00EE)).afterCalls
      [.step, .decay 0x0100] = (base.setDT 0x0500).halt .stackUnderflow 0x200 (some 0x00EE) := by
  decide

/-! ### Control transfer -/

/-- T-F1 -/
theorem test_ret : (after (base.setStack [0x0204]) 0x00EE).map (fun t => (t.pc, t.stack)) =
    some (0x0204, []) := by decide

/-- T-F2 -/
theorem test_ret_underflow : (after base 0x00EE).map (fun t => (t.status, t.pc)) =
    some (.halted .stackUnderflow 0x200 (some 0x00EE), 0x0202) := by decide

/-- T-F3: a non-canonical return records no fault when it can pop; strictly it is unknown. -/
theorem test_ret_noncanonical :
    (after (base.setStack [0x0300]) 0x03EE).map (fun t => t.pc) = some 0x0300 ∧
    (after (strictDecode (base.setStack [0x0300])) 0x03EE).map (fun t => (t.reports, t.pc)) =
      some ([⟨0x200, 0x03EE⟩], 0x0202) := by decide

/-- T-F4 -/
theorem test_jp : (after base 0x1ABC).map (fun t => t.pc) = some 0x0ABC := by decide

/-- T-F9: the sixteenth entry fits. -/
theorem test_call : (after (base.setStack (List.replicate 15 0x0300)) 0x2300).map
    (fun t => (t.stack.getLast?, t.stack.length, t.pc)) = some (some 0x0202, 16, 0x0300) := by decide

/-- T-F8: the seventeenth does not. -/
theorem test_call_overflow : (after (base.setStack (List.replicate 16 0x0300)) 0x2300).map
    (fun t => (t.status, t.stack.length, t.pc)) =
      some (.halted .stackOverflow 0x200 (some 0x2300), 16, 0x0202) := by decide

/-- T-F10, T-F11 -/
theorem test_seByte : (after (base.setV 0xA 0x02) 0x3A02).map (fun t => t.pc) = some 0x0204 ∧
    (after (base.setV 0xA 0x03) 0x3A02).map (fun t => t.pc) = some 0x0202 := by decide

/-- T-F12, T-F13 -/
theorem test_sneByte : (after (base.setV 3 0x10) 0x4310).map (fun t => t.pc) = some 0x0202 ∧
    (after (base.setV 3 0x11) 0x4310).map (fun t => t.pc) = some 0x0204 := by decide

/-- T-F15, T-F16 -/
theorem test_seReg :
    (after ((base.setV 1 0x01).setV 2 0x02) 0x5120).map (fun t => t.pc) = some 0x0202 ∧
    (after ((base.setV 1 0x7F).setV 2 0x7F) 0x5121).map (fun t => t.pc) = some 0x0204 := by decide

/-- T-F18, T-F19 -/
theorem test_sneReg :
    (after ((base.setV 1 0x01).setV 2 0x02) 0x9120).map (fun t => t.pc) = some 0x0204 ∧
    (after ((base.setV 1 0x01).setV 2 0x01) 0x9120).map (fun t => t.pc) = some 0x0202 := by decide

/-- T-F23: no 12-bit mask. -/
theorem test_jpOffset_legacy : (after (base.setV 0 0xFF) 0xBFFF).map (fun t => t.pc) =
    some 0x10FE := by decide

/-- T-F22 -/
theorem test_jpOffset_modern :
    (after (modernJump ((base.setV 3 0x10).setV 0 0x04)) 0xB300).map (fun t => t.pc) =
      some 0x0310 := by decide

/-! ### Arithmetic and logic -/

/-- T-A2 -/
theorem test_ldByte : (after base 0x6FFF).map (fun t => t.getV VF) = some 0xFF := by decide

/-- T-A3 -/
theorem test_addByte : (after ((base.setV 0 0xFF).setV VF 0x55) 0x7001).map
    (fun t => (t.getV 0, t.getV VF)) = some (0x00, 0x55) := by decide

/-- T-A4 -/
theorem test_ldReg : (after (base.setV 2 0x9A) 0x8120).map (fun t => t.getV 1) = some 0x9A := by
  decide

/-- T-A5, T-A22 -/
theorem test_orReg : (after (((base.setV 1 0x0F).setV 2 0xF0).setV VF 0x77) 0x8121).map
      (fun t => (t.getV 1, t.getV VF)) = some (0xFF, 0x00) ∧
    (after ((base.setV VF 0x0F).setV 2 0xF0) 0x8F21).map (fun t => t.getV VF) = some 0x00 := by
  decide

/-- T-A6 -/
theorem test_andReg : (after (((base.setV 1 0x3C).setV 2 0x0F).setV VF 0x77) 0x8122).map
    (fun t => (t.getV 1, t.getV VF)) = some (0x0C, 0x00) := by decide

/-- T-A6 -/
theorem test_xorReg : (after (((base.setV 1 0x3C).setV 2 0x0F).setV VF 0x77) 0x8123).map
    (fun t => (t.getV 1, t.getV VF)) = some (0x33, 0x00) := by decide

/-- T-A9: the sum is exactly 256. -/
theorem test_addReg : (after ((base.setV 1 0xFF).setV 2 0x01) 0x8124).map
    (fun t => (t.getV 1, t.getV VF)) = some (0x00, 0x01) := by decide

/-- T-A23, T-A24: VF as destination and as operand. -/
theorem test_addReg_VF :
    (after ((base.setV VF 0xC0).setV 1 0x40) 0x8F14).map (fun t => t.getV VF) = some 0x01 ∧
    (after ((base.setV 1 0xFF).setV VF 0x01) 0x81F4).map (fun t => (t.getV 1, t.getV VF)) =
      some (0x00, 0x01) := by decide

/-- T-A11, T-A13 -/
theorem test_subReg :
    (after ((base.setV 1 0x10).setV 2 0x20) 0x8125).map (fun t => (t.getV 1, t.getV VF)) =
      some (0xF0, 0x00) ∧
    (after ((base.setV 1 0x05).setV 2 0x05) 0x8125).map (fun t => (t.getV 1, t.getV VF)) =
      some (0x00, 0x01) := by decide

/-- T-A14, T-A15 -/
theorem test_subnReg :
    (after ((base.setV 1 0x10).setV 2 0x20) 0x8127).map (fun t => (t.getV 1, t.getV VF)) =
      some (0x10, 0x01) ∧
    (after ((base.setV 1 0x20).setV 2 0x10) 0x8127).map (fun t => (t.getV 1, t.getV VF)) =
      some (0xF0, 0x00) := by decide

/-- T-A17, in both modes -/
theorem test_shr :
    (after ((base.setV 1 0xFF).setV 2 0x04) 0x8126).map (fun t => (t.getV 1, t.getV VF)) =
      some (0x7F, 0x01) ∧
    (after (legacyShift ((base.setV 1 0xFF).setV 2 0x04)) 0x8126).map
      (fun t => (t.getV 1, t.getV VF)) = some (0x02, 0x00) := by decide

/-- T-A27: X = F, the result is written last. -/
theorem test_shr_VF :
    (after ((base.setV VF 0x03).setV 0 0x80) 0x8F06).map (fun t => t.getV VF) = some 0x01 ∧
    (after (legacyShift ((base.setV VF 0x03).setV 0 0x80)) 0x8F06).map (fun t => t.getV VF) =
      some 0x40 := by decide

/-- T-A20, in both modes -/
theorem test_shl :
    (after ((base.setV 1 0x01).setV 2 0x40) 0x812E).map (fun t => (t.getV 1, t.getV VF)) =
      some (0x02, 0x00) ∧
    (after (legacyShift ((base.setV 1 0x01).setV 2 0x40)) 0x812E).map
      (fun t => (t.getV 1, t.getV VF)) = some (0x80, 0x00) := by decide

/-- T-A28: X = F, the result is written last. -/
theorem test_shl_VF : (after (base.setV VF 0x80) 0x8FFE).map (fun t => t.getV VF) = some 0x00 := by
  decide

/-- T-A31, T-A33, with the byte the port answers given. -/
theorem test_rnd : (rndWith 0xA7 1 0x0F base).getV 1 = 0x07 ∧
    (rndWith 0x3C VF 0xFF base).getV VF = 0x3C := by decide

/-- R480: the port is called once even with NN = 0. -/
theorem test_rnd_counts : (after base 0xC100).map (fun t => t.draws) = some 1 := by decide

/-! ### Index register and memory -/

/-- T-M1 -/
theorem test_ldI : (after base 0xA123).map (fun t => t.I) = some 0x0123 := by decide

/-- T-M3: wraps, no flag. -/
theorem test_addI : (after ((base.setI 0xFFFF).setV 0 0x01) 0xF01E).map
    (fun t => (t.I, t.getV VF)) = some (0x0000, 0x00) := by decide

/-- T-M6 -/
theorem test_ldGlyph : (after (base.setV 0 0x0F) 0xF029).map (fun t => t.I) = some 0x009B := by
  decide

/-- T-M7 -/
theorem test_ldGlyph_out_of_range : (after ((base.setV 0 0x10).setI 0x0123) 0xF029).map
    (fun t => (t.status, t.I, t.pc)) =
      some (.halted .digitOutOfRange 0x200 (some 0xF029), 0x0123, 0x0202) := by decide

/-- T-M8, T-M12: also the last three bytes of memory, zero over what stood there. -/
theorem test_ldBcd :
    (after ((base.setV 0 0x9C).setI 0x0300) 0xF033).map
      (fun t => Memory.readBytes t.cfg t.mem 0x300 3) = some [0x01, 0x05, 0x06] ∧
    (after ((storing base 0xFFD [0x11, 0x22, 0x33]).setI 0x0FFD) 0xF033).map
      (fun t => Memory.readBytes t.cfg t.mem 0xFFD 3) = some [0x00, 0x00, 0x00] := by decide

/-- T-M13 -/
theorem test_ldBcd_out_of_bounds : (after (base.setI 0x0FFE) 0xF033).map
    (fun t => (t.status, t.peek 0xFFE, t.pc)) =
      some (.halted .memoryOutOfBounds 0x200 (some 0xF033), 0x00, 0x0202) := by decide

/-- T-M14, T-M23: also over the font. -/
theorem test_storeRegs :
    (after ((((base.setV 0 1).setV 1 2).setV 2 3).setI 0x0300) 0xF255).map
      (fun t => (Memory.readBytes t.cfg t.mem 0x300 4, t.I)) =
        some ([0x01, 0x02, 0x03, 0x00], 0x0300) ∧
    (after (base.setI 0x0050) 0xF055).map (fun t => t.peek 0x050) = some 0x00 := by decide

/-- T-M17 -/
theorem test_storeRegs_out_of_bounds : (after (base.setI 0x0FF1) 0xFF55).map (fun t => t.status) =
    some (.halted .memoryOutOfBounds 0x200 (some 0xFF55)) := by decide

/-- T-M22: glyph 0 read as data; V5 and I are unchanged. -/
theorem test_loadRegs : (after ((base.setI 0x0050).setV 5 0x77) 0xF465).map
    (fun t => ([0, 1, 2, 3, 4, 5].map t.getV, t.I)) =
      some ([0xF0, 0x90, 0x90, 0x90, 0xF0, 0x77], 0x0050) := by decide

/-- T-M21 -/
theorem test_loadRegs_out_of_bounds : (after ((base.setI 0x0FFF).setV 0 0x44) 0xF165).map
    (fun t => (t.status, t.getV 0)) =
      some (.halted .memoryOutOfBounds 0x200 (some 0xF165), 0x44) := by decide

/-! ### Display and keys -/

/-- Glyph 0 drawn at (0, 0): the cells of T-D2, row by row. -/
def glyph0 : Grid :=
  [⟨0, 0⟩, ⟨1, 0⟩, ⟨2, 0⟩, ⟨3, 0⟩, ⟨0, 1⟩, ⟨3, 1⟩, ⟨0, 2⟩, ⟨3, 2⟩, ⟨0, 3⟩, ⟨3, 3⟩] ++
  [⟨0, 4⟩, ⟨1, 4⟩, ⟨2, 4⟩, ⟨3, 4⟩]

/-- T-D1 -/
theorem test_cls : (after (base.setFb glyph0) 0x00E0).map (fun t => t.fb) = some [] := by decide

/-- T-D2, T-D3: drawn, then cleared with a collision. -/
theorem test_drw :
    (after (base.setI 0x0050) 0xD015).map (fun t => (t.fb, t.getV VF)) = some (glyph0, 0x00) ∧
    (after ((base.setI 0x0050).setFb glyph0) 0xD015).map (fun t => (t.fb, t.getV VF)) =
      some ([], 0x01) := by decide

/-- T-D5, T-D6: the start wraps and the pixels clip. -/
theorem test_drw_edges :
    (after (((base.setI 0x0050).setV 0 0x46).setV 1 0x21) 0xD011).map (fun t => t.fb) =
      some [⟨6, 1⟩, ⟨7, 1⟩, ⟨8, 1⟩, ⟨9, 1⟩] ∧
    (after ((base.setI 0x0050).setV 1 0x1E) 0xD015).map (fun t => t.fb) =
      some [⟨0, 30⟩, ⟨1, 30⟩, ⟨2, 30⟩, ⟨3, 30⟩, ⟨0, 31⟩, ⟨3, 31⟩] := by decide

/-- T-K1, T-K5 -/
theorem test_skp :
    (after (holding (base.setV 2 0x05) [5]) 0xE29E).map (fun t => t.pc) = some 0x0204 ∧
    (after (holding (base.setV 2 0x05) [4]) 0xE29E).map (fun t => t.pc) = some 0x0202 := by decide

/-- T-K3, T-K4 -/
theorem test_sknp :
    (after (base.setV 2 0x05) 0xE2A1).map (fun t => t.pc) = some 0x0204 ∧
    (after (holding (base.setV 2 0x05) [5]) 0xE2A1).map (fun t => t.pc) = some 0x0202 := by decide

/-- T-K6 -/
theorem test_key_out_of_range :
    (after (base.setV 2 0x10) 0xE29E).map (fun t => (t.status, t.pc)) =
      some (.halted .keyOutOfRange 0x200 (some 0xE29E), 0x0202) ∧
    (after (base.setV 2 0x10) 0xE2A1).map (fun t => (t.status, t.pc)) =
      some (.halted .keyOutOfRange 0x200 (some 0xE2A1), 0x0202) := by decide

/-- T-K7 steps 1 and 2: no press, then the lower of two keys is recorded; pc retreats. -/
theorem test_ldKey_press :
    (after base 0xF30A).map (fun t => (t.pc, t.waitKey)) = some (0x0200, none) ∧
    (after (holding base [4, 9]) 0xF30A).map (fun t => (t.pc, t.waitKey)) =
      some (0x0200, some 4) := by decide

/-- T-K7 step 3, T-K8 step 2: the recorded key's release resolves, whatever else is held. -/
theorem test_ldKey_release :
    (after (holding (base.setWaitKey (some 4)) [9]) 0xF30A).map
      (fun t => (t.pc, t.waitKey, t.getV 3)) = some (0x0202, none, 0x04) ∧
    (after (holding (base.setWaitKey (some 7)) [7]) 0xF50A).map
      (fun t => (t.pc, t.waitKey, t.getV 5)) = some (0x0200, some 7, 0x00) := by decide

/-! ### Timers -/

/-- T-T2, T-T3 -/
theorem test_ldFromDT :
    (after (base.setDT 0x0480) 0xF107).map (fun t => t.getV 1) = some 0x04 ∧
    (after (base.setDT 0x00FF) 0xF107).map (fun t => t.getV 1) = some 0x00 := by decide

/-- T-T1, T-T9 -/
theorem test_ldDT :
    (after (base.setV 0 0x3C) 0xF015).map (fun t => t.DT) = some 0x3C00 ∧
    (after (base.setDT 0x1234) 0xF015).map (fun t => t.DT) = some 0x0000 := by decide

/-- T-T4 -/
theorem test_ldST : (after (base.setV 1 0x01) 0xF118).map (fun t => (t.ST, t.soundActive)) =
    some (0x0100, true) := by decide

/-- T-T6, T-T8 -/
theorem test_decay :
    ((base.setDT 0x0100).setST 0x0500).decay 0x0200 = base.setST 0x0300 ∧
    (((base.setDT 0x0500).halt .stackUnderflow 0x200 none).decay 0x0100).DT = 0x0500 := by decide

/-- W6, R589: 5 counts fall to 4, and to 0 after four more calls, and stay there. -/
theorem test_decay_example :
    ((base.setDT 0x0500).decay 0x0100).DT = 0x0400 ∧
    ((base.setDT 0x0500).afterCalls (List.replicate 5 (.decay 0x0100))).DT = 0x0000 ∧
    ((base.setDT 0x0500).afterCalls (List.replicate 6 (.decay 0x0100))).DT = 0x0000 := by decide

/-- T-T11 -/
theorem test_decayAmount : decayAmount (1 / 500) = 30 := by
  norm_num [decayAmount]
  rfl

/-! ### Unknown -/

/-- T-A30, and the example of R406. -/
theorem test_unknown :
    (after base 0x8128).map (fun t => (t.reports, t.pc, t.getV 1)) =
      some ([⟨0x200, 0x8128⟩], 0x0202, 0x00) ∧
    (after base 0x8008).map (fun t => (t.reports, t.pc)) =
      some ([⟨0x200, 0x8008⟩], 0x0202) := by decide

/-! ### Witnesses: the hypotheses of the statements can be met -/

/-- The reset state is legal. -/
theorem base_inv : base.Inv :=
  ⟨by decide, by decide, by decide, by decide, by decide, trivial⟩

/-- `LoadLeavesTheResetValues`: T-L2 and T-L3, the longest program that fits and one byte more. -/
theorem witness_load : Config.standard.wf = true ∧
    (List.replicate 3584 (0xFF : Byte)).length ≤ Config.standard.capacity - 0x200 ∧
    Config.standard.capacity - 0x200 < (List.replicate 3585 (0xFF : Byte)).length := by
  refine ⟨by decide, ?_, ?_⟩ <;> rw [List.length_replicate] <;> decide

/-- `OpcodeViewsKeepEveryBit`: canonical words, a mapped and an unknown one. -/
theorem witness_canonical : canonical 0x8AB4 = true ∧ canonical 0x0123 = true := by decide

/-- `DecodeFollowsTheOpcodeMap`: every row's own bits match it, and 0x0000 matches none. -/
theorem witness_rows : (opcodeRows.all fun r => r.bits &&& r.mask == r.bits) = true ∧
    ∀ r ∈ opcodeRows, (0x0000 : Word) &&& r.mask ≠ r.bits := by decide

/-- `DecodeOfEncodeIsTheInstruction`. -/
theorem witness_wellFormed : WellFormed true (.drw 0xF 0xF 0xF) = true ∧
    WellFormed false (.unknown 0x0123) = true := by decide

/-- `StepRunsTheDecodedInstruction`, at the last address a fetch may use. -/
theorem witness_step :
    ((base.setPc 0x0FFE).withFetchWord 16 0x602A).CanFetch ∧
    ((base.setPc 0x0FFE).withFetchWord 16 0x602A).WordAt 0x0FFE 0x602A ∧
    decode base.cfg.strictDecode 0x602A = .ldByte 0 0x2A := by
  refine ⟨by decide, ?_, by decide⟩
  unfold State.WordAt
  decide

/-- `FetchPastMemoryHaltsTheBlock` and the fetch row of `FatalCausesFollowTheTable`. -/
theorem witness_fetch_past : (base.setPc 0x0FFF).Running ∧
    (base.setPc 0x0FFF).cfg.capacity ≤ (base.setPc 0x0FFF).pc.toNat + 1 := by decide

/-- `HaltedBlockStaysFrozen`. -/
theorem witness_halted : (base.halt .stackUnderflow 0x200 (some 0x00EE)).status =
    .halted .stackUnderflow 0x200 (some 0x00EE) := rfl

/-- `RunningBlockAlwaysAnswers`, `StepKeepsTheStateLegal`: the reset state runs, and its step answers. -/
theorem witness_running : base.Running ∧ base.Inv ∧ ∃ t, step base = .next t :=
  ⟨rfl, base_inv, _, rfl⟩

/-- `FatalStepChangesOnlyPcAndStatus`: a return on the empty stack. -/
theorem witness_fatal_step : (base.withFetchWord 16 0x00EE).CanFetch ∧
    (base.withFetchWord 16 0x00EE).WordAt 0x200 0x00EE ∧
    ∃ t, step (base.withFetchWord 16 0x00EE) = .next t ∧ ¬ t.Running := by
  refine ⟨by decide, ?_, _, rfl, by decide⟩
  unfold State.WordAt
  decide

/-- `FatalCausesFollowTheTable`: the rows of R604 for memory, each on both sides of its bound. -/
theorem witness_fatalCause_memory :
    fatalCauseOf (base.setI 0x0FFB) (.drw 0 1 5) = none ∧
    fatalCauseOf (base.setI 0x0FFC) (.drw 0 1 5) = some .memoryOutOfBounds ∧
    fatalCauseOf (base.setI 0x1000) (.drw 0 1 0) = none ∧
    fatalCauseOf (base.setI 0x0FFD) (.ldBcd 0) = none ∧
    fatalCauseOf (base.setI 0x0FFE) (.ldBcd 0) = some .memoryOutOfBounds ∧
    fatalCauseOf (base.setI 0x0FF0) (.storeRegs 0xF) = none ∧
    fatalCauseOf (base.setI 0x0FF1) (.storeRegs 0xF) = some .memoryOutOfBounds ∧
    fatalCauseOf (base.setI 0x0FFF) (.loadRegs 0) = none ∧
    fatalCauseOf (base.setI 0x0FFF) (.loadRegs 1) = some .memoryOutOfBounds := by decide

/-- `FatalCausesFollowTheTable`: the rows of R604 for the stack, on both sides of their bounds, and a
stack longer than `STACK_DEPTH` (log entry 13). -/
theorem witness_fatalCause_stack :
    fatalCauseOf base .ret = some .stackUnderflow ∧
    fatalCauseOf (base.setStack [0x0204]) .ret = none ∧
    fatalCauseOf (base.setStack (List.replicate 15 0x0204)) (.call 0x300) = none ∧
    fatalCauseOf (base.setStack (List.replicate 16 0x0204)) (.call 0x300) = some .stackOverflow ∧
    fatalCauseOf (base.setStack (List.replicate 17 0x0204)) (.call 0x300) = some .stackOverflow := by
  decide

/-- `FatalCausesFollowTheTable`: the rows of R604 for keys and digits, on both sides of 15, and an
instruction that is never fatal. -/
theorem witness_fatalCause_hex :
    fatalCauseOf (base.setV 2 0x0F) (.skp 2) = none ∧
    fatalCauseOf (base.setV 2 0x10) (.skp 2) = some .keyOutOfRange ∧
    fatalCauseOf (base.setV 2 0x0F) (.sknp 2) = none ∧
    fatalCauseOf (base.setV 2 0x10) (.sknp 2) = some .keyOutOfRange ∧
    fatalCauseOf (base.setV 2 0x0F) (.ldGlyph 2) = none ∧
    fatalCauseOf (base.setV 2 0x10) (.ldGlyph 2) = some .digitOutOfRange ∧
    fatalCauseOf base .cls = none := by decide

/-- `InstructionsWriteOnlyWhatTheirRulesName` and the statements about what an instruction cannot
depend on: an instruction that is none of those they except. -/
theorem witness_exec : base.Inv ∧ (∃ t, exec .cls base = .next t) ∧
    (∀ x, (Instr.cls ≠ .skp x ∧ Instr.cls ≠ .sknp x ∧ Instr.cls ≠ .ldKey x) ∧
      Instr.cls ≠ .ldFromDT x ∧ Instr.cls ≠ .ldDT x ∧ Instr.cls ≠ .ldST x) ∧
    (∀ x y, Instr.cls ≠ .shr x y ∧ Instr.cls ≠ .shl x y) ∧ ∀ nnn, Instr.cls ≠ .jpOffset nnn :=
  ⟨base_inv, ⟨_, rfl⟩, by simp, by simp, by simp⟩

/-- `UnknownWordIsReportedAndSkipped`. -/
theorem witness_unknown : (base.withFetchWord 16 0x8128).CanFetch ∧
    (base.withFetchWord 16 0x8128).WordAt 0x200 0x8128 ∧
    ∀ r ∈ opcodeRows, (0x8128 : Word) &&& r.mask ≠ r.bits := by
  refine ⟨by decide, ?_, by decide⟩
  unfold State.WordAt
  decide

/-- `ReturnPopsTheStack`, both clauses. -/
theorem witness_return : base.stack = [] ∧ (base.setStack [0x0204]).stack = [] ++ [0x0204] :=
  ⟨rfl, rfl⟩

/-- `JumpToItselfIsAFixedPoint`: T-F5. -/
theorem witness_self_jump : (base.withFetchWord 16 0x1200).CanFetch ∧
    (base.withFetchWord 16 0x1200).WordAt 0x200 0x1200 ∧
    (0x1200 : Word).toNat = 0x1000 + (base.withFetchWord 16 0x1200).pc.toNat ∧
    (base.withFetchWord 16 0x1200).pc.toNat < 0x1000 := by
  refine ⟨by decide, ?_, by decide, by decide⟩
  unfold State.WordAt
  decide

/-- `CallPushesTheAdvancedPc`, both clauses at the bound, and `ReturnGoesBackAfterTheCall`. -/
theorem witness_call :
    (base.setStack (List.replicate 16 0x0300)).stack.length = base.cfg.stackDepth ∧
    (base.setStack (List.replicate 15 0x0300)).stack.length < base.cfg.stackDepth := by decide

/-- `LogicOperationsClearVF`, `AddSetsTheCarry`, `SubtractionsSetNoBorrow`,
`ShiftsMoveTheConfiguredSource`: a destination that is not VF, and a source in each shift mode. -/
theorem witness_alu : (1 : Reg) ≠ VF ∧
    (0x05 : Byte) = (if (base.setV 1 0x05).cfg.legacyShift then (base.setV 1 0x05).getV 2
      else (base.setV 1 0x05).getV 1) ∧
    (0x04 : Byte) = (if (legacyShift (base.setV 2 0x04)).cfg.legacyShift
      then (legacyShift (base.setV 2 0x04)).getV 2 else (legacyShift (base.setV 2 0x04)).getV 1) := by
  decide

/-- `GlyphAddressOrDigitOutOfRange`, `KeySkipsReadTheKeyLevel`: 15 and 16. -/
theorem witness_hex : ((base.setV 2 0x0F).getV 2).toNat ≤ 15 ∧
    ((base.setV 2 0x0F).getV 2).toNat = (15 : Key).val ∧ ((base.setV 2 0x10).getV 2).toNat > 15 := by
  decide

/-- `BcdStoresThreeDigitsAtI`: the last extent inside memory and the first outside it. -/
theorem witness_bcd : (base.setI 0x0FFD).I.toNat + 3 ≤ (base.setI 0x0FFD).cfg.capacity ∧
    Memory.wf (base.setI 0x0FFD).cfg (base.setI 0x0FFD).mem ∧
    (base.setI 0x0FFE).I.toNat + 3 > (base.setI 0x0FFE).cfg.capacity := by decide

/-- `BulkStoreWritesRegistersAtI`, `BulkLoadReadsRegistersFromI`: likewise, with X = F. -/
theorem witness_bulk :
    (base.setI 0x0FF0).I.toNat + (15 : Reg).val + 1 ≤ (base.setI 0x0FF0).cfg.capacity ∧
    Memory.wf (base.setI 0x0FF0).cfg (base.setI 0x0FF0).mem ∧
    (base.setI 0x0FF1).I.toNat + (15 : Reg).val + 1 > (base.setI 0x0FF1).cfg.capacity := by decide

/-- `NextFetchSeesTheStore`: pc at the first byte stored. -/
theorem witness_store_fetch : ((base.setI 0x0200).setPc 0x0200).Inv ∧
    ((base.setI 0x0200).setPc 0x0200).Running ∧
    ((base.setI 0x0200).setPc 0x0200).I.toNat + (1 : Reg).val + 1 ≤ base.cfg.capacity ∧
    (0 : Reg) ≤ 1 ∧ (1 : Reg) ≤ 1 ∧ (1 : Reg).val = (0 : Reg).val + 1 ∧
    ((base.setI 0x0200).setPc 0x0200).pc.toNat =
      ((base.setI 0x0200).setPc 0x0200).I.toNat + (0 : Reg).val := by
  refine ⟨⟨by decide, by decide, by decide, by decide, by decide, trivial⟩, ?_⟩
  decide

/-- `DrawSpriteFlipsTheCoveredCells`, `DrawingTwiceRestoresTheGrid`: a grid with lit cells. -/
theorem witness_grid : Grid.wf Config.standard glyph0 := by decide

/-- `DrawSetsVFToTheCollision`: T-D8, and T-D10 with the five bytes at the end of memory. -/
theorem witness_drw : (base.setI 0x1000).I.toNat + (1 : BitVec 4).toNat > base.cfg.capacity ∧
    (base.setI 0x0FFB).I.toNat + (5 : BitVec 4).toNat ≤ base.cfg.capacity ∧
    Grid.wf (base.setI 0x0FFB).cfg (base.setI 0x0FFB).fb ∧
    (List.replicate 5 (0x00 : Byte)).length = (5 : BitVec 4).toNat ∧
    ∀ k, ∀ hk : k < (List.replicate 5 (0x00 : Byte)).length,
      (List.replicate 5 (0x00 : Byte))[k] = (base.setI 0x0FFB).peek (0x0FFB + k) := by
  refine ⟨by decide, by decide, by decide, rfl, ?_⟩
  simp only [List.length_replicate]
  intro k hk
  interval_cases k <;> rfl

/-- `KeyWaitFollowsItsTwoPhases`, `WaitingKeyStepIsAFixedPoint`: a state for each clause. -/
theorem witness_key_wait :
    (base.waitKey = none ∧ ∀ k : Key, base.keys[k] = false) ∧
    ((holding base [4, 9]).waitKey = none ∧ (holding base [4, 9]).keys[(4 : Key)] = true ∧
      ∀ j : Key, j < 4 → (holding base [4, 9]).keys[j] = false) ∧
    ((holding (base.setWaitKey (some 7)) [7]).waitKey = some 7 ∧
      (holding (base.setWaitKey (some 7)) [7]).keys[(7 : Key)] = true) ∧
    ((base.setWaitKey (some 7)).waitKey = some 7 ∧
      (base.setWaitKey (some 7)).keys[(7 : Key)] = false) := by decide

/-- `WaitingKeyStepIsAFixedPoint`, `PressThenReleaseCompletesKeyWait`: FX0A stands at pc. -/
theorem witness_key_word : ((holding base [7]).withFetchWord 16 0xF30A).CanFetch ∧
    ((holding base [7]).withFetchWord 16 0xF30A).WordAt 0x200 0xF30A ∧
    decode ((holding base [7]).withFetchWord 16 0xF30A).cfg.strictDecode 0xF30A = .ldKey 3 ∧
    ((holding base [7]).withFetchWord 16 0xF30A).waitKey = none ∧
    ((holding base [7]).withFetchWord 16 0xF30A).keys[(7 : Key)] = true ∧
    (∀ j : Key, j < 7 → ((holding base [7]).withFetchWord 16 0xF30A).keys[j] = false) ∧
    (Vector.replicate 16 false)[(7 : Key)] = false := by
  refine ⟨by decide, ?_, by decide, by decide, by decide, by decide, by decide⟩
  unfold State.WordAt
  decide

/-- `WaitingKeyStepIsAFixedPoint`: FX0A at pc, with no key held and with the recorded key held. -/
theorem witness_key_waiting :
    ((base.withFetchWord 16 0xF30A).waitKey = none ∧
      ∀ k : Key, (base.withFetchWord 16 0xF30A).keys[k] = false) ∧
    (((holding base [7]).setWaitKey (some 7)).withFetchWord 16 0xF30A).waitKey = some 7 ∧
    (((holding base [7]).setWaitKey (some 7)).withFetchWord 16 0xF30A).keys[(7 : Key)] = true := by
  decide

/-- `DecayLowersBothTimers`: a running and a halted block. -/
theorem witness_decay : base.Running ∧ ¬ (base.halt .stackUnderflow 0x200 none).Running := by decide

/-- `TimersRiseOnlyWhenSet`: FX15 and FX18 raise a timer. -/
theorem witness_timer_rises :
    ((base.setV 0 0x3C).withFetchWord 16 0xF015).DT.toNat <
      (((base.setV 0 0x3C).withFetchWord 16 0xF015).afterCall .step).DT.toNat ∧
    ((base.setV 0 0x3C).withFetchWord 16 0xF018).ST.toNat <
      (((base.setV 0 0x3C).withFetchWord 16 0xF018).afterCall .step).ST.toNat := by decide

/-- `TickDecaysThenRunsAtMostOneStep`: below a period, and exactly one period. -/
theorem witness_tick : (0 : ℚ) ≤ (Driver.start base).acc ∧ (0 : ℚ) ≤ 1 / 1000 ∧
    (Driver.start base).acc + 1 / 1000 < 1 / 500 ∧
    (1 : ℚ) / 500 ≤ (Driver.start base).acc + 1 / 500 := by norm_num [Driver.start]

/-- `EveryScheduleFromLoadStaysLegal`, `InfiniteScheduleStaysLegalAndHaltsForGood`. -/
theorem witness_schedule : Config.standard.wf = true ∧
    ∃ s, load Config.standard [0x12, 0x00] = .ok s := by
  refine ⟨by decide, ?_⟩
  unfold load
  rw [if_neg (by decide)]
  exact ⟨_, rfl⟩

/-- `InfiniteScheduleStaysLegalAndHaltsForGood`: along the schedule that only steps, a block whose first
word is 00EE is halted after one call, and still after three. -/
theorem witness_infinite_schedule :
    (base.withFetchWord 16 0x00EE).Running ∧
    ¬ ((base.withFetchWord 16 0x00EE).afterFirst (fun _ => .step) 1).Running ∧
    ¬ ((base.withFetchWord 16 0x00EE).afterFirst (fun _ => .step) 3).Running := by decide

/-- `DecayCallsReachOnlyRunsThatReadDT`: a schedule with a decay before the step of an FX15 (log entry
10 says why its decay is a host call). -/
theorem witness_reads_no_timer :
    (base.withFetchWord 16 0xF015).ReadsNoTimer [.decay 0x0100, .step] := by
  intro before after h
  have hb : before = [.decay 0x0100] := by
    rcases before with _ | ⟨a, _ | ⟨b, rest⟩⟩ <;> simp_all
  subst hb
  intro _ w hw x
  have hf : ((base.withFetchWord 16 0xF015).afterCalls [.decay 0x0100]).fetch = some 0xF015 := by
    decide
  rw [hf] at hw
  cases hw
  decide +revert

end Sys2Proof.Tests
end

/-! ## The build parameters an instruction reads

O52 is read off one equation, `exec_withCfg`: an instruction run under other build parameters does the
same, as long as the sizes, the font and the switches that this instruction reads agree. -/

namespace Sys2Proof

/-- Two builds with the same sizes and font: every parameter that some instruction reads agrees, but for
the two legacy switches. -/
structure Config.SameLayout (c d : Config) : Prop where
  capacity : c.capacity = d.capacity
  font : c.font = d.font
  stackDepth : c.stackDepth = d.stackDepth
  displayW : c.displayW = d.displayW
  displayH : c.displayH = d.displayH

theorem Config.SameLayout.refl (c : Config) : c.SameLayout c := ⟨rfl, rfl, rfl, rfl, rfl⟩

theorem Config.sameLayout_legacyShift (c : Config) (b : Bool) :
    Config.SameLayout { c with legacyShift := b } c := ⟨rfl, rfl, rfl, rfl, rfl⟩

theorem Config.sameLayout_legacyJumpOffset (c : Config) (b : Bool) :
    Config.SameLayout { c with legacyJumpOffset := b } c := ⟨rfl, rfl, rfl, rfl, rfl⟩

end Sys2Proof

namespace Sys2Proof.Machine

/-! ### Memory and display operations under another build -/

section Build

variable {c d : Config}

theorem Memory.unlisted_of_sameLayout (h : c.SameLayout d) : Memory.unlisted c = Memory.unlisted d := by
  funext a
  simp only [Memory.unlisted, h.font]

theorem Memory.read_of_sameLayout (h : c.SameLayout d) (m : Memory) (a : Nat) :
    Memory.read c m a = Memory.read d m a := by
  induction m with
  | nil => simp [Memory.unlisted_of_sameLayout h]
  | cons cell m ih => rw [Memory.read_cons, Memory.read_cons, ih]

theorem Memory.readBytes_of_sameLayout (h : c.SameLayout d) (m : Memory) (a n : Nat) :
    Memory.readBytes c m a n = Memory.readBytes d m a n := by
  induction n generalizing a with
  | zero => rfl
  | succ n ih => rw [Memory.readBytes, Memory.readBytes, Memory.read_of_sameLayout h, ih]

theorem Memory.writeBytes_of_sameLayout (h : c.SameLayout d) (m : Memory) (a : Nat) (bs : List Byte) :
    Memory.writeBytes c m a bs = Memory.writeBytes d m a bs := by
  induction bs generalizing m a with
  | nil => rfl
  | cons b bs ih =>
    simp only [Memory.writeBytes, Memory.write, Memory.unlisted_of_sameLayout h, ih]

theorem drawPixel_of_sameLayout (h : c.SameLayout d) : drawPixel c = drawPixel d := by
  funext gc p
  simp only [drawPixel, h.displayW, h.displayH]

theorem drawRows_of_sameLayout (h : c.SameLayout d) (x0 row : Nat) (bs : List Byte)
    (gc : Grid × Bool) : drawRows c x0 row bs gc = drawRows d x0 row bs gc := by
  induction bs generalizing row gc with
  | nil => rfl
  | cons b bs ih => simp only [drawRows, drawRow, drawPixel_of_sameLayout h, ih]

theorem drawSprite_of_sameLayout (h : c.SameLayout d) (g : Grid) (bs : List Byte) (x y : Byte) :
    drawSprite c g bs x y = drawSprite d g bs x y := by
  simp only [drawSprite, h.displayW, h.displayH, drawRows_of_sameLayout h]

end Build

/-! ### The state under another build -/

/-- The same state of a block built with the parameters `c`. -/
def State.withCfg (s : State) (c : Config) : State := { s with cfg := c }

/-- Apply `f` to the next state of an outcome; a fault or a refusal stays as it is. -/
def mapNext (f : State → State) : Host.Outcome State Fault Refusal → Host.Outcome State Fault Refusal
  | .next t => .next (f t)
  | .fault r => .fault r
  | .refused r => .refused r

@[simp] theorem mapNext_next (f : State → State) (t : State) : mapNext f (.next t) = .next (f t) := rfl

section WithCfg

variable (s : State) {c : Config}

@[simp] theorem State.withCfg_cfg : (s.withCfg c).cfg = c := rfl
@[simp] theorem State.withCfg_self : s.withCfg s.cfg = s := rfl
@[simp] theorem State.withCfg_I : (s.withCfg c).I = s.I := rfl
@[simp] theorem State.withCfg_pc : (s.withCfg c).pc = s.pc := rfl
@[simp] theorem State.withCfg_stack : (s.withCfg c).stack = s.stack := rfl
@[simp] theorem State.withCfg_mem : (s.withCfg c).mem = s.mem := rfl
@[simp] theorem State.withCfg_waitKey : (s.withCfg c).waitKey = s.waitKey := rfl
@[simp] theorem State.withCfg_fb : (s.withCfg c).fb = s.fb := rfl
@[simp] theorem State.withCfg_getV : (s.withCfg c).getV = s.getV := rfl
@[simp] theorem State.withCfg_hexOperand : (s.withCfg c).hexOperand = s.hexOperand := rfl
@[simp] theorem State.withCfg_keyPressed : (s.withCfg c).keyPressed = s.keyPressed := rfl

theorem State.pop_withCfg :
    (s.withCfg c).pop = s.pop.map fun p => (p.1, p.2.withCfg c) := by
  unfold State.pop
  rw [State.withCfg_stack]
  cases s.stack.getLast? <;> rfl

theorem State.skipIf_withCfg (b : Bool) : (s.withCfg c).skipIf b = (s.skipIf b).withCfg c := by
  cases b <;> rfl

theorem State.setRegs_withCfg (ps : List (Reg × Byte)) :
    (s.withCfg c).setRegs ps = (s.setRegs ps).withCfg c := by
  induction ps generalizing s with
  | nil => rfl
  | cons p ps ih => exact ih (s.setV p.1 p.2)

theorem State.shiftSource_withCfg (h : c.legacyShift = s.cfg.legacyShift) :
    (s.withCfg c).shiftSource = s.shiftSource := by
  funext x y
  simp [State.shiftSource, h]

theorem State.jumpOffset_withCfg (h : c.legacyJumpOffset = s.cfg.legacyJumpOffset) :
    (s.withCfg c).jumpOffset = s.jumpOffset := by
  funext nnn
  simp [State.jumpOffset, h]

variable {s} (hc : c.SameLayout s.cfg)
include hc

theorem State.push_withCfg (v : Word) : (s.withCfg c).push v = (s.push v).map (·.withCfg c) := by
  rw [State.push_eq, State.push_eq, State.withCfg_stack, State.withCfg_cfg, hc.stackDepth]
  split <;> rfl

theorem State.memRead_withCfg (a n : Nat) : (s.withCfg c).memRead a n = s.memRead a n := by
  simp only [State.memRead_eq, State.withCfg_cfg, State.withCfg_mem, hc.capacity,
    Memory.readBytes_of_sameLayout hc]

theorem State.memWrite_withCfg (a : Nat) (bs : List Byte) :
    (s.withCfg c).memWrite a bs = (s.memWrite a bs).map (·.withCfg c) := by
  simp only [State.memWrite_eq, State.withCfg_cfg, State.withCfg_mem, hc.capacity,
    Memory.writeBytes_of_sameLayout hc]
  split <;> rfl

/-- A halt reads the font, through the word it records (R405). -/
theorem State.raiseFatal_withCfg (cause : Cause) :
    (s.withCfg c).raiseFatal cause = (s.raiseFatal cause).withCfg c := by
  have hword : (s.withCfg c).currentWord = s.currentWord := by
    simp only [State.currentWord, State.wordAt, State.peek, State.withCfg_cfg, State.withCfg_mem,
      State.currentAddr, State.withCfg_pc, Memory.read_of_sameLayout hc]
  rw [State.raiseFatal, hword]
  rfl

/-! ### The instructions that can halt -/

theorem execRet_withCfg : execRet (s.withCfg c) = mapNext (·.withCfg c) (execRet s) := by
  unfold execRet
  rw [State.pop_withCfg]
  cases s.pop with
  | none => simp [State.raiseFatal_withCfg hc]
  | some p => rfl

theorem execCall_withCfg (nnn : BitVec 12) :
    execCall nnn (s.withCfg c) = mapNext (·.withCfg c) (execCall nnn s) := by
  unfold execCall
  rw [State.push_withCfg hc, State.withCfg_pc]
  cases s.push s.pc with
  | none => simp [State.raiseFatal_withCfg hc]
  | some t => rfl

theorem execDrw_withCfg (x y : Reg) (n : BitVec 4) :
    execDrw x y n (s.withCfg c) = mapNext (·.withCfg c) (execDrw x y n s) := by
  unfold execDrw
  rw [State.memRead_withCfg hc, State.withCfg_I]
  cases s.memRead s.I.toNat n.toNat with
  | none => simp [State.raiseFatal_withCfg hc]
  | some bytes =>
    simp only [State.withCfg_cfg, State.withCfg_fb, State.withCfg_getV, drawSprite_of_sameLayout hc]
    rfl

theorem execSkp_withCfg (x : Reg) :
    execSkp x (s.withCfg c) = mapNext (·.withCfg c) (execSkp x s) := by
  unfold execSkp
  rw [State.withCfg_hexOperand]
  cases s.hexOperand x with
  | none => simp [State.raiseFatal_withCfg hc]
  | some k => simp [State.skipIf_withCfg]

theorem execSknp_withCfg (x : Reg) :
    execSknp x (s.withCfg c) = mapNext (·.withCfg c) (execSknp x s) := by
  unfold execSknp
  rw [State.withCfg_hexOperand]
  cases s.hexOperand x with
  | none => simp [State.raiseFatal_withCfg hc]
  | some k => simp [State.skipIf_withCfg]

theorem execLdGlyph_withCfg (x : Reg) :
    execLdGlyph x (s.withCfg c) = mapNext (·.withCfg c) (execLdGlyph x s) := by
  unfold execLdGlyph
  rw [State.withCfg_hexOperand]
  cases s.hexOperand x with
  | none => simp [State.raiseFatal_withCfg hc]
  | some d => rfl

theorem execLdBcd_withCfg (x : Reg) :
    execLdBcd x (s.withCfg c) = mapNext (·.withCfg c) (execLdBcd x s) := by
  unfold execLdBcd
  rw [State.memWrite_withCfg hc, State.withCfg_I, State.withCfg_getV]
  cases s.memWrite s.I.toNat (bcdDigits (s.getV x)) with
  | none => simp [State.raiseFatal_withCfg hc]
  | some t => rfl

theorem execStoreRegs_withCfg (x : Reg) :
    execStoreRegs x (s.withCfg c) = mapNext (·.withCfg c) (execStoreRegs x s) := by
  unfold execStoreRegs
  rw [State.memWrite_withCfg hc, State.withCfg_I, State.withCfg_getV]
  cases s.memWrite s.I.toNat ((regsThrough x).map s.getV) with
  | none => simp [State.raiseFatal_withCfg hc]
  | some t => rfl

theorem execLoadRegs_withCfg (x : Reg) :
    execLoadRegs x (s.withCfg c) = mapNext (·.withCfg c) (execLoadRegs x s) := by
  unfold execLoadRegs
  rw [State.memRead_withCfg hc, State.withCfg_I]
  cases s.memRead s.I.toNat (x.val + 1) with
  | none => simp [State.raiseFatal_withCfg hc]
  | some bytes => simp [State.setRegs_withCfg]

omit hc

theorem exec_ldKey_withCfg (x : Reg) :
    exec (.ldKey x) (s.withCfg c) = mapNext (·.withCfg c) (exec (.ldKey x) s) := by
  cases hw : s.waitKey with
  | none =>
    rw [exec_ldKey_of_none hw, exec_ldKey_of_none (s := s.withCfg c) hw]
    rfl
  | some k =>
    cases hk : s.keyPressed k with
    | true =>
      rw [exec_ldKey_of_held hw hk, exec_ldKey_of_held (s := s.withCfg c) hw hk]
      rfl
    | false =>
      rw [exec_ldKey_of_released hw hk, exec_ldKey_of_released (s := s.withCfg c) hw hk]
      rfl

/-! ### Every instruction -/

/-- An instruction does the same on a block built with other parameters of the same layout, where the
shifts need the same LEGACY_SHIFT and BNNN the same LEGACY_JUMP_OFFSET. -/
theorem exec_withCfg {i : Instr} (hc : c.SameLayout s.cfg)
    (hshift : ∀ x y, i = .shr x y ∨ i = .shl x y → c.legacyShift = s.cfg.legacyShift)
    (hjump : ∀ nnn, i = .jpOffset nnn → c.legacyJumpOffset = s.cfg.legacyJumpOffset) :
    exec i (s.withCfg c) = mapNext (·.withCfg c) (exec i s) := by
  cases i with
  | ret => exact execRet_withCfg hc
  | call nnn => exact execCall_withCfg hc nnn
  | seByte x nn => exact congrArg _ (State.skipIf_withCfg s _)
  | sneByte x nn => exact congrArg _ (State.skipIf_withCfg s _)
  | seReg x y => exact congrArg _ (State.skipIf_withCfg s _)
  | sneReg x y => exact congrArg _ (State.skipIf_withCfg s _)
  | shr x y =>
    simp only [exec, execShr, State.shiftSource_withCfg s (hshift x y (.inl rfl))]
    rfl
  | shl x y =>
    simp only [exec, execShl, State.shiftSource_withCfg s (hshift x y (.inr rfl))]
    rfl
  | jpOffset nnn =>
    simp only [exec, execJpOffset, State.jumpOffset_withCfg s (hjump nnn rfl)]
    rfl
  | drw x y n => exact execDrw_withCfg hc x y n
  | skp x => exact execSkp_withCfg hc x
  | sknp x => exact execSknp_withCfg hc x
  | ldKey x => exact exec_ldKey_withCfg x
  | ldGlyph x => exact execLdGlyph_withCfg hc x
  | ldBcd x => exact execLdBcd_withCfg hc x
  | storeRegs x => exact execStoreRegs_withCfg hc x
  | loadRegs x => exact execLoadRegs_withCfg hc x
  | _ => rfl

/-- No instruction changes the build parameters (R10): run under its own, it gives back its own. -/
theorem exec_keeps_cfg {i : Instr} {t : State} (h : exec i s = .next t) : t.cfg = s.cfg := by
  have hself : exec i (s.withCfg s.cfg) = mapNext (·.withCfg s.cfg) (exec i s) :=
    exec_withCfg (.refl _) (fun _ _ _ => rfl) (fun _ _ => rfl)
  rw [State.withCfg_self, h, mapNext_next, Host.Outcome.next.injEq] at hself
  rw [hself, State.withCfg_cfg]

end WithCfg

/-- Settles O52: each switch is left alone by `Config.SameLayout`, and the excluded instructions are the
ones `exec_withCfg` asks to agree on it. -/
theorem legacySwitchesReachOnlyTheirInstructions :
    Obligations.LegacySwitchesReachOnlyTheirInstructions := by
  unfold Obligations.LegacySwitchesReachOnlyTheirInstructions
  intro i s t b h
  rw [exec_keeps_cfg h]
  constructor
  · intro hi
    have hrun := exec_withCfg (i := i) (Config.sameLayout_legacyShift s.cfg b)
      (fun x y he => absurd he (not_or.2 (hi x y))) (fun _ _ => rfl)
    rwa [h] at hrun
  · intro hi
    have hrun := exec_withCfg (i := i) (Config.sameLayout_legacyJumpOffset s.cfg b)
      (fun _ _ _ => rfl) (fun nnn he => absurd he (hi nnn))
    rwa [h] at hrun

end Sys2Proof.Machine

/-! ## Legal states

O54 and O56 are read off one fact, `State.Inv.answersLegal`: from a legal state every instruction answers
a legal state. Beside the build parameters `State.Inv` speaks of memory, stack, grid and status, so every
instruction that writes none of them keeps it for one reason; the others draw, write memory, push, pop or
halt. -/

namespace Sys2Proof.Machine

/-! ### Drawing keeps the canonical form of the grid -/

section Drawing

variable {cfg : Config} {gc : Grid × Bool}

theorem drawRow_wf (h : Grid.wf cfg gc.1) (x0 row : Nat) (b : Byte) :
    Grid.wf cfg (drawRow cfg x0 row b gc).1 := by
  unfold drawRow
  induction spriteColumns b generalizing gc with
  | nil => exact h
  | cons k ks ih => exact ih (drawPixel_wf h)

theorem drawRows_wf (h : Grid.wf cfg gc.1) (x0 row : Nat) (bs : List Byte) :
    Grid.wf cfg (drawRows cfg x0 row bs gc).1 := by
  induction bs generalizing row gc with
  | nil => exact h
  | cons b bs ih => exact ih (drawRow_wf h x0 row b) (row + 1)

theorem drawSprite_wf {g : Grid} (h : Grid.wf cfg g) (bs : List Byte) (x y : Byte) :
    Grid.wf cfg (drawSprite cfg g bs x y).1 := drawRows_wf h _ _ bs

end Drawing

/-! ### The operations on a legal state -/

section Legal

variable {s t : State}

/-- Whatever changes none of the fields `State.Inv` speaks of keeps a state legal. -/
theorem State.Inv.of_same (h : s.Inv) (hcfg : t.cfg = s.cfg) (hmem : t.mem = s.mem)
    (hstack : t.stack = s.stack) (hfb : t.fb = s.fb) (hstatus : t.status = s.status) : t.Inv where
  cfg := hcfg ▸ h.cfg
  mem := hcfg ▸ hmem ▸ h.mem
  space := hcfg ▸ hmem ▸ h.space
  stack := hcfg ▸ hstack ▸ h.stack
  fb := hcfg ▸ hfb ▸ h.fb
  status := hstatus ▸ h.status

theorem State.Inv.setI (h : s.Inv) (v : Word) : (s.setI v).Inv := h.of_same rfl rfl rfl rfl rfl

theorem State.Inv.setPc (h : s.Inv) (v : Word) : (s.setPc v).Inv := h.of_same rfl rfl rfl rfl rfl

theorem State.Inv.setV (h : s.Inv) (x : Reg) (b : Byte) : (s.setV x b).Inv :=
  h.of_same rfl rfl rfl rfl rfl

theorem State.Inv.skipIf (h : s.Inv) (b : Bool) : (s.skipIf b).Inv := by
  rw [State.skipIf_eq_setPc]
  exact h.setPc _

theorem State.Inv.setRegs (h : s.Inv) (ps : List (Reg × Byte)) : (s.setRegs ps).Inv := by
  rw [State.setRegs_eq]
  exact h.of_same rfl rfl rfl rfl rfl

theorem State.Inv.setFb (h : s.Inv) {g : Grid} (hg : Grid.wf s.cfg g) : (s.setFb g).Inv :=
  { h with fb := hg }

theorem State.Inv.setStack (h : s.Inv) {st : List Word} (hst : st.length ≤ s.cfg.stackDepth) :
    (s.setStack st).Inv := { h with stack := hst }

theorem State.Inv.writeBytes (h : s.Inv) {a : Nat} {bs : List Byte}
    (hb : a + bs.length ≤ s.cfg.capacity) :
    State.Inv { s with mem := Memory.writeBytes s.cfg s.mem a bs } :=
  { h with
    mem := Memory.wf_writeBytes h.mem
    space := Memory.inSpace_writeBytes hb h.space }

/-- A halt in an instruction's body records a word, so its cause is not the failed fetch (R119). -/
theorem State.Inv.raiseFatal (h : s.Inv) {c : Cause} (hc : c ≠ .fetchOutOfBounds) :
    (s.raiseFatal c).Inv :=
  { h with status := ⟨nofun, fun e => absurd e hc⟩ }

/-- A failed fetch records no word (R119, R603). -/
theorem State.Inv.raiseFetchFatal (h : s.Inv) : s.raiseFetchFatal.Inv :=
  { h with status := ⟨fun _ => rfl, fun _ => rfl⟩ }

/-! ### The instructions on a legal state -/

/-- The body of an instruction answers a legal state. -/
abbrev AnswersLegal (i : Instr) (s : State) : Prop := ∃ t, exec i s = .next t ∧ t.Inv

theorem AnswersLegal.of_raiseFatal {i : Instr} {c : Cause} (h : s.Inv)
    (hx : exec i s = .next (s.raiseFatal c)) (hc : c ≠ .fetchOutOfBounds) : AnswersLegal i s :=
  ⟨_, hx, h.raiseFatal hc⟩

theorem answersLegal_ret (h : s.Inv) : AnswersLegal .ret s := by
  rcases List.eq_nil_or_concat' s.stack with hst | ⟨st, v, hst⟩
  · exact .of_raiseFatal h (exec_ret_of_nil hst) (by decide)
  · have hlen : st.length ≤ s.cfg.stackDepth := by
      have := h.stack
      simp only [hst, List.length_append] at this
      omega
    exact ⟨_, exec_ret_of_concat hst, (h.setStack hlen).setPc v⟩

theorem answersLegal_call (h : s.Inv) (nnn : BitVec 12) : AnswersLegal (.call nnn) s := by
  rcases Nat.lt_or_ge s.stack.length s.cfg.stackDepth with hroom | hfull
  · have hlen : (s.stack ++ [s.pc]).length ≤ s.cfg.stackDepth := by simpa using hroom
    exact ⟨_, exec_call_of_lt hroom, (h.setStack hlen).setPc _⟩
  · exact .of_raiseFatal h (exec_call_of_ge hfull) (by decide)

theorem answersLegal_drw (h : s.Inv) (x y : Reg) (n : BitVec 4) : AnswersLegal (.drw x y n) s := by
  rcases Nat.lt_or_ge s.cfg.capacity (s.I.toNat + n.toNat) with hout | hin
  · exact .of_raiseFatal h (exec_drw_of_gt hout) (by decide)
  · exact ⟨_, exec_drw_of_le hin, (h.setFb (drawSprite_wf h.fb _ _ _)).setV _ _⟩

theorem answersLegal_ldBcd (h : s.Inv) (x : Reg) : AnswersLegal (.ldBcd x) s := by
  rcases Nat.lt_or_ge s.cfg.capacity (s.I.toNat + 3) with hout | hin
  · exact .of_raiseFatal h (exec_ldBcd_of_gt hout) (by decide)
  · exact ⟨_, exec_ldBcd_of_le hin, h.writeBytes hin⟩

theorem answersLegal_storeRegs (h : s.Inv) (x : Reg) : AnswersLegal (.storeRegs x) s := by
  rcases Nat.lt_or_ge s.cfg.capacity (s.I.toNat + (x.val + 1)) with hout | hin
  · exact .of_raiseFatal h (exec_storeRegs_of_gt hout) (by decide)
  · exact ⟨_, exec_storeRegs_of_le hin, h.writeBytes (by simpa using hin)⟩

theorem answersLegal_loadRegs (h : s.Inv) (x : Reg) : AnswersLegal (.loadRegs x) s := by
  rcases Nat.lt_or_ge s.cfg.capacity (s.I.toNat + (x.val + 1)) with hout | hin
  · exact .of_raiseFatal h (exec_loadRegs_of_gt hout) (by decide)
  · exact ⟨_, exec_loadRegs_of_le hin, h.setRegs _⟩

theorem answersLegal_ldGlyph (h : s.Inv) (x : Reg) : AnswersLegal (.ldGlyph x) s := by
  rcases Nat.lt_or_ge 15 (s.getV x).toNat with hout | hin
  · exact .of_raiseFatal h (exec_ldGlyph_of_gt hout) (by decide)
  · exact ⟨_, exec_ldGlyph_of_digit (d := ⟨_, Nat.lt_succ_of_le hin⟩) rfl, h.setI _⟩

theorem answersLegal_skp (h : s.Inv) (x : Reg) : AnswersLegal (.skp x) s := by
  rcases Nat.lt_or_ge 15 (s.getV x).toNat with hout | hin
  · exact .of_raiseFatal h (exec_skp_of_gt hout) (by decide)
  · exact ⟨_, exec_skp_of_key (k := ⟨_, Nat.lt_succ_of_le hin⟩) rfl, h.skipIf _⟩

theorem answersLegal_sknp (h : s.Inv) (x : Reg) : AnswersLegal (.sknp x) s := by
  rcases Nat.lt_or_ge 15 (s.getV x).toNat with hout | hin
  · exact .of_raiseFatal h (exec_sknp_of_gt hout) (by decide)
  · exact ⟨_, exec_sknp_of_key (k := ⟨_, Nat.lt_succ_of_le hin⟩) rfl, h.skipIf _⟩

theorem answersLegal_ldKey (h : s.Inv) (x : Reg) : AnswersLegal (.ldKey x) s := by
  cases hw : s.waitKey with
  | none => exact ⟨_, exec_ldKey_of_none hw, h.of_same rfl rfl rfl rfl rfl⟩
  | some k =>
    cases hk : s.keyPressed k with
    | true => exact ⟨_, exec_ldKey_of_held hw hk, h.setPc _⟩
    | false => exact ⟨_, exec_ldKey_of_released hw hk, h.of_same rfl rfl rfl rfl rfl⟩

/-- From a legal state every instruction answers a legal state. -/
theorem State.Inv.answersLegal (h : s.Inv) (i : Instr) : AnswersLegal i s := by
  cases i with
  | cls => exact ⟨_, exec_cls, h.setFb ⟨.nil, nofun⟩⟩
  | ret => exact answersLegal_ret h
  | call nnn => exact answersLegal_call h nnn
  | seByte x nn => exact ⟨_, rfl, h.skipIf _⟩
  | sneByte x nn => exact ⟨_, rfl, h.skipIf _⟩
  | seReg x y => exact ⟨_, rfl, h.skipIf _⟩
  | sneReg x y => exact ⟨_, rfl, h.skipIf _⟩
  | drw x y n => exact answersLegal_drw h x y n
  | skp x => exact answersLegal_skp h x
  | sknp x => exact answersLegal_sknp h x
  | ldKey x => exact answersLegal_ldKey h x
  | ldGlyph x => exact answersLegal_ldGlyph h x
  | ldBcd x => exact answersLegal_ldBcd h x
  | storeRegs x => exact answersLegal_storeRegs h x
  | loadRegs x => exact answersLegal_loadRegs h x
  | _ => exact ⟨_, rfl, h.of_same rfl rfl rfl rfl rfl⟩

theorem exec_keeps_inv {i : Instr} (h : s.Inv) (hx : exec i s = .next t) : t.Inv := by
  obtain ⟨u, hu, hlegal⟩ := h.answersLegal i
  rw [hx, Host.Outcome.next.injEq] at hu
  exact hu ▸ hlegal

/-! ### Steps and host calls -/

theorem step_keeps_inv (h : s.Inv) (hx : step s = .next t) : t.Inv := by
  obtain ⟨-, ⟨-, rfl⟩ | ⟨w, -, hw⟩⟩ := step_cases hx
  · exact h.raiseFetchFatal
  · exact exec_keeps_inv (h.setPc _) hw

/-- No step changes the build parameters (R10). -/
theorem step_keeps_cfg (hx : step s = .next t) : t.cfg = s.cfg := by
  obtain ⟨-, ⟨-, rfl⟩ | ⟨w, -, hw⟩⟩ := step_cases hx
  · rfl
  · exact (exec_keeps_cfg hw).trans s.advancePc_cfg

/-- A call of `step` takes a step where one is answered, and otherwise leaves the block as it is. -/
theorem State.stepCall_cases (s : State) : s.stepCall = s ∨ step s = .next s.stepCall := by
  unfold State.stepCall
  cases step s with
  | next t => exact .inr rfl
  | fault r => exact .inl rfl
  | refused r => exact .inl rfl

/-- A decay changes the timers and nothing else (R580). -/
theorem State.decay_eq_setTimers (s : State) (dec : Word) :
    s.decay dec = (s.setDT (s.decay dec).DT).setST (s.decay dec).ST := by
  unfold State.decay
  cases s.status <;> rfl

theorem afterCall_keeps_inv (h : s.Inv) (call : HostCall) : (s.afterCall call).Inv := by
  cases call with
  | step =>
    rcases s.stepCall_cases with hsame | hnext
    · rwa [State.afterCall_step, hsame]
    · exact step_keeps_inv h hnext
  | decay dec =>
    rw [State.afterCall_decay, State.decay_eq_setTimers]
    exact h.of_same rfl rfl rfl rfl rfl
  | pollInput keys => exact h.of_same rfl rfl rfl rfl rfl

/-- No host call changes the build parameters (R10). -/
theorem afterCall_keeps_cfg (s : State) (call : HostCall) : (s.afterCall call).cfg = s.cfg := by
  cases call with
  | step =>
    rcases s.stepCall_cases with hsame | hnext
    · rw [State.afterCall_step, hsame]
    · exact step_keeps_cfg hnext
  | decay dec =>
    rw [State.afterCall_decay, State.decay_eq_setTimers]
    rfl
  | pollInput keys => rfl

end Legal

/-- Settles O54: a step is a failed fetch or the body of an instruction after the pc advance, and both
keep a state legal. -/
theorem stepKeepsTheStateLegal : Obligations.StepKeepsTheStateLegal :=
  fun _ _ h hx => ⟨step_keeps_inv h hx, step_keeps_cfg hx⟩

/-- Settles O56: a call of `step` takes a step or does nothing, and the other calls write timers or key
levels only. -/
theorem everyHostCallKeepsTheStateLegal : Obligations.EveryHostCallKeepsTheStateLegal :=
  fun s call h => ⟨afterCall_keeps_inv h call, afterCall_keeps_cfg s call⟩

end Sys2Proof.Machine

/-! ## Program load and stored words

O1 and O37 are read off `Memory.read_writeBytes`, once for the program that `load` copies into the reset
memory and once for the registers that FX55 copies out: a byte inside the extent is the one written, and a
byte outside it is what it was. -/

namespace Sys2Proof.Machine

/-! ### Inside and outside a written extent -/

section Extent

variable {cfg : Config} {m : Memory} {a b k : Nat} {bs : List Byte}

theorem Memory.read_writeBytes_add (h : Memory.wf cfg m) (hk : k < bs.length) :
    Memory.read cfg (Memory.writeBytes cfg m a bs) (a + k) = bs[k] := by
  simp [Memory.read_writeBytes h, hk]

theorem Memory.read_writeBytes_of_outside (h : Memory.wf cfg m) (hb : b < a ∨ a + bs.length ≤ b) :
    Memory.read cfg (Memory.writeBytes cfg m a bs) b = Memory.read cfg m b := by
  rw [Memory.read_writeBytes h]
  split
  · exact List.getD_eq_default _ _ (by omega)
  · rfl

end Extent

/-! ### The state that `load` leaves -/

section Load

variable {cfg : Config} {rom : List Byte}

theorem Memory.wf_nil : Memory.wf cfg [] := ⟨.nil, nofun⟩

theorem Memory.unlisted_font (k : Fin 80) : Memory.unlisted cfg (fontStart + k) = cfg.font[k] := by
  simp [Memory.unlisted, fontBytes]

theorem Memory.unlisted_of_outside_font {a : Nat} (h : a < fontStart ∨ fontStart + fontBytes ≤ a) :
    Memory.unlisted cfg a = 0x00 :=
  dif_neg (by omega)

/-- The reset state with the program's bytes in memory from `romStart` up. -/
def State.loaded (cfg : Config) (rom : List Byte) : State :=
  { State.resetWith cfg with mem := Memory.writeBytes cfg [] romStart rom }

theorem load_of_gt (h : cfg.capacity - romStart < rom.length) :
    load cfg rom = .error .outOfSpace := if_pos h

theorem load_of_le (h : rom.length ≤ cfg.capacity - romStart) :
    load cfg rom = .ok (State.loaded cfg rom) := if_neg (Nat.not_lt.2 h)

theorem State.getV_loaded (r : Reg) : (State.loaded cfg rom).getV r = 0x00 := by
  simp [State.getV, State.loaded]

theorem State.peek_loaded_program {k : Nat} (hk : k < rom.length) :
    (State.loaded cfg rom).peek (romStart + k) = rom[k] :=
  Memory.read_writeBytes_add Memory.wf_nil hk

/-- Beside the program, memory holds what an unlisted address reads as. -/
theorem State.peek_loaded_of_outside {a : Nat} (ha : a < romStart ∨ romStart + rom.length ≤ a) :
    (State.loaded cfg rom).peek a = Memory.unlisted cfg a :=
  Memory.read_writeBytes_of_outside Memory.wf_nil ha

theorem State.peek_loaded_font (k : Fin 80) :
    (State.loaded cfg rom).peek (fontStart + k) = cfg.font[k] := by
  have hbelow : fontStart + k.val < romStart := by
    simp only [fontStart, romStart]
    omega
  rw [State.peek_loaded_of_outside (.inl hbelow), Memory.unlisted_font]

end Load

/-- Settles O1: a program that fits is written over the reset memory, which holds the font and is zero
elsewhere; every other field is that of the reset state. -/
theorem loadLeavesTheResetValues : Obligations.LoadLeavesTheResetValues := by
  unfold Obligations.LoadLeavesTheResetValues
  intro cfg rom _
  refine ⟨load_of_gt, fun hfits => ⟨_, load_of_le hfits, rfl, State.getV_loaded, rfl, rfl, rfl, rfl,
    rfl, rfl, fun _ => rfl, rfl, rfl, State.peek_loaded_font, fun _ => State.peek_loaded_program,
    fun a ha => ?_⟩⟩
  have hprogram : a < romStart ∨ romStart + rom.length ≤ a := by
    simp only [romStart]
    omega
  have hfont : a < fontStart ∨ fontStart + fontBytes ≤ a := by
    simp only [fontStart, fontBytes]
    omega
  rw [State.peek_loaded_of_outside hprogram, Memory.unlisted_of_outside_font hfont]

/-! ### The word that FX55 stores -/

theorem getElem_regsThrough {x r : Reg} (h : r.val < (regsThrough x).length) :
    (regsThrough x)[r.val] = r := by
  simp [regsThrough]

/-- The state after FX55 with its extent in bounds (R520). -/
def State.storedRegs (s : State) (x : Reg) : State :=
  { s with mem := Memory.writeBytes s.cfg s.mem s.I.toNat ((regsThrough x).map s.getV) }

theorem exec_storeRegs_eq_storedRegs {s : State} {x : Reg}
    (h : s.I.toNat + (x.val + 1) ≤ s.cfg.capacity) :
    exec (.storeRegs x) s = .next (s.storedRegs x) := exec_storeRegs_of_le h

/-- FX55 leaves each register up to VX at its own offset from I (R215, R520). -/
theorem State.peek_storedRegs {s : State} {x r : Reg} (h : Memory.wf s.cfg s.mem) (hr : r ≤ x) :
    (s.storedRegs x).peek (s.I.toNat + r) = s.getV r := by
  have hlen : r.val < (regsThrough x).length := by
    rw [length_regsThrough]
    exact Nat.lt_succ_of_le hr
  calc (s.storedRegs x).peek (s.I.toNat + r)
    _ = ((regsThrough x).map s.getV)[r.val]'(by simpa using hlen) :=
      Memory.read_writeBytes_add h (by simpa using hlen)
    _ = s.getV r := by rw [List.getElem_map, getElem_regsThrough hlen]

/-- Settles O37: the fetch after the store reads the two bytes at pc, which are the two registers. -/
theorem nextFetchSeesTheStore : Obligations.NextFetchSeesTheStore := by
  unfold Obligations.NextFetchSeesTheStore
  intro s x hi lo hinv _ hfits hhi hlo hnext hpc
  have hsnd : s.pc.toNat + 1 = s.I.toNat + lo := by omega
  have hroom : s.pc.toNat + 1 < s.cfg.capacity := by
    have : lo.val ≤ x.val := hlo
    omega
  have hfetch : (s.storedRegs x).fetch = some ((s.storedRegs x).wordAt s.pc.toNat) := if_pos hroom
  refine ⟨_, _, exec_storeRegs_eq_storedRegs hfits, hfetch, ?_⟩
  rw [State.wordAt, toNat_wordOfBytes, hsnd, hpc, State.peek_storedRegs hinv.mem hhi,
    State.peek_storedRegs hinv.mem hlo]

end Sys2Proof.Machine

/-! ## Encoding

Every word is put together from its fields, and each instruction's encoding is such a word; so decode is
described through encode. `decodeFields_encode` reads an encoding back; `encode_decodeFields` says that
decoding and encoding again clears the ignored bits of a word and changes no other. The rows of the opcode
map follow from the two, since the encoding of each instruction is in its row (Laws/PerInstr.lean). -/

namespace Sys2Proof

/-! ### The views of a word -/

section Views

variable (w : Word)

theorem toNat_nibble (pos : Nat) : (nibble w pos).toNat = w.toNat / 16 ^ pos % 16 := by
  rw [nibble, BitVec.extractLsb'_toNat, Nat.shiftRight_eq_div_pow, pow_mul]
  rfl

theorem toNat_byteOf (pos : Nat) : (byteOf w pos).toNat = w.toNat / 256 ^ pos % 256 := by
  rw [byteOf, BitVec.extractLsb'_toNat, Nat.shiftRight_eq_div_pow, pow_mul]
  rfl

theorem toNat_addr12 : (addr12 w).toNat = w.toNat % 4096 := by
  rw [addr12, BitVec.extractLsb'_toNat, Nat.shiftRight_zero]

theorem regX_eq_fieldX : Machine.regX w = fieldX w := Fin.ext (toNat_nibble w 2).symm

theorem regY_eq_fieldY : Machine.regY w = fieldY w := Fin.ext (toNat_nibble w 1).symm

theorem low4_eq_nibble : Machine.low4 w = nibble w 0 := rfl

theorem low8_eq_byteOf : Machine.low8 w = byteOf w 0 := rfl

theorem low12_eq_addr12 : Machine.low12 w = addr12 w := rfl

@[simp] theorem regBits_fieldX : regBits (fieldX w) = nibble w 2 := rfl

@[simp] theorem regBits_fieldY : regBits (fieldY w) = nibble w 1 := rfl

end Views

/-! ### A word put together from its fields (R302) -/

section Formats

variable (w : Word)

theorem formatA_fields : formatA (nibble w 3) (addr12 w) = w := by
  apply BitVec.eq_of_getLsbD_eq
  intro i hi
  simp [nibble, addr12, formatA, place]
  interval_cases i <;> simp

theorem formatXNN_fields : formatXNN (nibble w 3) (fieldX w) (byteOf w 0) = w := by
  apply BitVec.eq_of_getLsbD_eq
  intro i hi
  simp [nibble, byteOf, formatXNN, place]
  interval_cases i <;> simp

theorem formatXYN_fields :
    formatXYN (nibble w 3) (fieldX w) (fieldY w) (nibble w 0) = w := by
  apply BitVec.eq_of_getLsbD_eq
  intro i hi
  simp [nibble, formatXYN, place]
  interval_cases i <;> simp

/-! ### The parts of a word that the masks of the opcode map keep (R310) -/

theorem and_family : w &&& 0xF000 = formatA (nibble w 3) 0 := by
  calc w &&& 0xF000
    _ = formatA (nibble w 3) (addr12 w) &&& 0xF000 := by rw [formatA_fields]
    _ = formatA (nibble w 3) 0 := by
      rw [Laws.formatA_and_family]
      simp [formatA, place]

theorem and_family_byte : w &&& 0xF0FF = formatXNN (nibble w 3) 0 (byteOf w 0) := by
  calc w &&& 0xF0FF
    _ = formatXNN (nibble w 3) (fieldX w) (byteOf w 0) &&& 0xF0FF := by rw [formatXNN_fields]
    _ = formatXNN (nibble w 3) 0 (byteOf w 0) := by
      rw [Laws.formatXNN_and_sub]
      simp [formatXNN, place, regBits]

theorem and_family_nibble : w &&& 0xF00F = formatXYN (nibble w 3) 0 0 (nibble w 0) := by
  calc w &&& 0xF00F
    _ = formatXYN (nibble w 3) (fieldX w) (fieldY w) (nibble w 0) &&& 0xF00F := by
      rw [formatXYN_fields]
    _ = formatXYN (nibble w 3) 0 0 (nibble w 0) := by
      rw [Laws.formatXYN_and_sub]
      simp [formatXYN, place, regBits]

/-- 5XY0 and 9XY0 with the ignored nibble cleared (R305). -/
theorem and_not_low_nibble :
    w &&& ~~~0x000F = formatXYN (nibble w 3) (fieldX w) (fieldY w) 0 := by
  apply BitVec.eq_of_getLsbD_eq
  intro i hi
  interval_cases i <;> simp [nibble, formatXYN, place]

theorem and_all_bits : w &&& 0xFFFF#16 = w := BitVec.and_allOnes

/-- Format Z is the layout of XNN with operation 0 and the ignored digit zero (R306). -/
theorem formatZ_eq_formatXNN (b : Byte) : formatZ b = formatXNN 0#4 0 b := by
  simp [formatZ, formatXNN, place, regBits]

end Formats

/-! ### The fields that a row's bits fix -/

section Match

variable {w : Word} {op n : BitVec 4} {b : Byte}

theorem nibble3_of_family (h : w &&& 0xF000 = formatA op 0) : nibble w 3 = op := by
  rw [and_family] at h
  simpa using congrArg (nibble · 3) h

theorem fields_of_family_byte (h : w &&& 0xF0FF = formatXNN op 0 b) :
    nibble w 3 = op ∧ byteOf w 0 = b := by
  rw [and_family_byte] at h
  exact ⟨by simpa using congrArg (nibble · 3) h, by simpa using congrArg (byteOf · 0) h⟩

theorem fields_of_family_nibble (h : w &&& 0xF00F = formatXYN op 0 0 n) :
    nibble w 3 = op ∧ nibble w 0 = n := by
  rw [and_family_nibble] at h
  exact ⟨by simpa using congrArg (nibble · 3) h, by simpa using congrArg (nibble · 0) h⟩

end Match

/-! ### Encode, then decode -/

section Roundtrip

variable {i : Instr} {w : Word}

/-- The switch reads back the instruction that was encoded. -/
theorem decodeFields_encode (hi : ∀ v, i ≠ .unknown v) : decodeFields (encode i) = i := by
  cases i with
  | unknown v => exact absurd rfl (hi v)
  | cls => rfl
  | ret => rfl
  | _ => simp [encode, decodeFields, decodeFamily8, decodeFamilyE, decodeFamilyF]

/-- An encoding has its ignored bits zero (R306). -/
theorem encode_and_ignoredBits (i : Instr) : encode i &&& ignoredBits i = 0 := by
  cases i with
  | seReg x y => exact Laws.formatXYN_and_low ..
  | sneReg x y => exact Laws.formatXYN_and_low ..
  | cls => rfl
  | ret => rfl
  | _ => exact BitVec.and_zero

/-! ### Decode, then encode

In each case of the switch the selector has the value of the case, so the fields that the case takes are all
that is left of the word. -/

theorem encode_decodeFamily0 (h : nibble w 3 = 0x0#4) :
    encode (decodeFamily0 w) = w &&& ~~~ignoredBits (decodeFamily0 w) := by
  have hz : formatZ (byteOf w 0) = w &&& ~~~0x0F00 := by
    rw [formatZ_eq_formatXNN, ← h]
    exact (and_family_byte w).symm
  unfold decodeFamily0
  split
  · next hb => rwa [hb] at hz
  · next hb => rwa [hb] at hz
  · simp [encode, ignoredBits, and_all_bits]

theorem encode_decodeFamily8 (h : nibble w 3 = 0x8#4) :
    encode (decodeFamily8 w) = w &&& ~~~ignoredBits (decodeFamily8 w) := by
  have hw := formatXYN_fields w
  unfold decodeFamily8
  split <;> simp_all [encode, ignoredBits, and_all_bits]

theorem encode_decodeFamilyE (h : nibble w 3 = 0xE#4) :
    encode (decodeFamilyE w) = w &&& ~~~ignoredBits (decodeFamilyE w) := by
  have hw := formatXNN_fields w
  unfold decodeFamilyE
  split <;> simp_all [encode, ignoredBits, and_all_bits]

theorem encode_decodeFamilyF (h : nibble w 3 = 0xF#4) :
    encode (decodeFamilyF w) = w &&& ~~~ignoredBits (decodeFamilyF w) := by
  have hw := formatXNN_fields w
  unfold decodeFamilyF
  split <;> simp_all [encode, ignoredBits, and_all_bits]

/-- Decoding a word and encoding the result clears the ignored bits and keeps the others (R305, R306). -/
theorem encode_decodeFields (w : Word) :
    encode (decodeFields w) = w &&& ~~~ignoredBits (decodeFields w) := by
  have hA := formatA_fields w
  have hXNN := formatXNN_fields w
  have hXYN := formatXYN_fields w
  unfold decodeFields
  split
  case h_1 h => exact encode_decodeFamily0 h
  case h_6 h => exact (h ▸ and_not_low_nibble w).symm
  case h_9 h => exact encode_decodeFamily8 h
  case h_10 h => exact (h ▸ and_not_low_nibble w).symm
  case h_15 h => exact encode_decodeFamilyE h
  case h_16 =>
    have h : nibble w 3 = 0xF#4 := by  -- the other fifteen nibbles are the cases above
      clear hA hXNN hXYN
      simp only [imp_false] at *
      bv_omega
    exact encode_decodeFamilyF h
  all_goals simp_all [encode, ignoredBits, and_all_bits]

end Roundtrip

/-! ### The rows of the opcode map -/

section Rows

variable {i : Instr} {r : OpcodeRow} {v w : Word} {strict : Bool}

/-- The canonical word of every instruction is in the row of its mnemonic (Laws/PerInstr.lean). -/
theorem rowOfEncoding (i : Instr) : Laws.RowOfEncoding.Statement i := by
  open Laws.RowOfEncoding in
  cases i
  exacts [cls, ret, jp _, call _, seByte _ _, sneByte _ _, seReg _ _, ldByte _ _, addByte _ _,
    ldReg _ _, orReg _ _, andReg _ _, xorReg _ _, addReg _ _, subReg _ _, shr _ _, subnReg _ _,
    shl _ _, sneReg _ _, ldI _, jpOffset _, rnd _ _, drw _ _ _, skp _, sknp _, ldFromDT _, ldKey _,
    ldDT _, ldST _, addI _, ldGlyph _, ldBcd _, storeRegs _, loadRegs _, unknown _]

theorem mnemonic_eq_unknown_iff : i.mnemonic = "UNKNOWN" ↔ ∃ v, i = .unknown v := by
  cases i <;> simp [Instr.mnemonic]

theorem wellFormed_of_ne_unknown (hi : ∀ v, i ≠ .unknown v) : WellFormed strict i = true := by
  cases i with
  | unknown v => exact absurd rfl (hi v)
  | _ => rfl

/-- The row of an instruction ignores the bits that the decoder ignores (R305). -/
theorem row_ignored (hr : r ∈ opcodeRows) (hm : r.mnemonic = i.mnemonic) :
    r.ignored = ignoredBits i := by
  revert r
  cases i <;> simp only [Instr.mnemonic, ignoredBits] <;> decide

theorem mask_and_not_ignored : ∀ r ∈ opcodeRows, ~~~r.ignored &&& r.mask = r.mask := by decide

/-- An unknown instruction carries the word it was decoded from (R311). -/
theorem eq_of_decodeFields_eq_unknown (h : decodeFields w = .unknown v) : v = w := by
  simpa [h, encode, ignoredBits, and_all_bits] using encode_decodeFields w

/-- A word that does not decode to unknown matches the row of the instruction it decodes to. -/
theorem exists_row_of_decodeFields (hw : decodeFields w ≠ .unknown w) :
    ∃ r ∈ opcodeRows, r.mnemonic = (decodeFields w).mnemonic ∧ w &&& r.mask = r.bits ∧
      r.ignored = ignoredBits (decodeFields w) := by
  have hknown : ∀ v, decodeFields w ≠ .unknown v :=
    fun v hv => hw (eq_of_decodeFields_eq_unknown hv ▸ hv)
  obtain ⟨r, hr, hm, htakes⟩ | ⟨hm, -⟩ :=
    rowOfEncoding (decodeFields w) false (wellFormed_of_ne_unknown hknown)
  · have hign := row_ignored hr hm
    refine ⟨r, hr, hm, ?_, hign⟩
    calc w &&& r.mask
      _ = (w &&& ~~~r.ignored) &&& r.mask := by rw [BitVec.and_assoc, mask_and_not_ignored r hr]
      _ = encode (decodeFields w) &&& r.mask := by rw [hign, encode_decodeFields]
      _ = r.bits := by simpa [OpcodeRow.takes] using htakes
  · obtain ⟨v, hv⟩ := mnemonic_eq_unknown_iff.1 hm
    exact absurd hv (hknown v)

/-! ### Decode, with and without `STRICT_DECODE` -/

theorem decode_false (w : Word) : decode false w = decodeFields w := rfl

theorem decode_true (w : Word) :
    decode true w = if w &&& ignoredBits (decodeFields w) = 0 then decodeFields w else .unknown w := by
  simp [decode]

theorem decode_of_decodeFields_eq_unknown (h : decodeFields w = .unknown w) :
    decode strict w = .unknown w := by
  simp [decode, h]

/-- A word that no row takes is unknown: if it matches a row, it has an ignored bit set. -/
theorem decode_of_not_mapped (h : mapped strict w = false) : decode strict w = .unknown w := by
  by_cases hu : decodeFields w = .unknown w
  · exact decode_of_decodeFields_eq_unknown hu
  · obtain ⟨r, hr, -, hmatch, hign⟩ := exists_row_of_decodeFields hu
    have htakes : r.takes strict w = false := by simpa using List.any_eq_false.1 h r hr
    have hset : (strict && w &&& ignoredBits (decodeFields w) != 0) = true := by
      simpa [OpcodeRow.takes, hmatch, hign] using htakes
    exact if_pos hset

/-- Under either setting of `STRICT_DECODE`, encode and then decode is the identity (R302, R306). -/
theorem decode_encode (hi : WellFormed strict i = true) : decode strict (encode i) = i := by
  by_cases hu : ∃ v, i = .unknown v
  · obtain ⟨v, rfl⟩ := hu
    exact decode_of_not_mapped (by simpa [WellFormed, encode] using hi)
  · have hfields := decodeFields_encode fun v hv => hu ⟨v, hv⟩
    simp [decode, hfields, encode_and_ignoredBits]

end Rows

/-- Settles O7: the fields of the encoding are the instruction's operands, its ignored bits are zero, and
its two bytes make the word again; a well-formed unknown word is one that no row takes. -/
theorem decodeOfEncodeIsTheInstruction : Obligations.DecodeOfEncodeIsTheInstruction :=
  fun _ i rest hi =>
    ⟨decode_encode hi, by simp [encodeBytes, decode_encode hi]⟩

/-! ### Decoding a word that matches a row -/

section Decode

variable {i : Instr} {op n : BitVec 4} {b : Byte} {w : Word}

/-! A word of a row without ignored bits is the encoding of the row's instruction, with the operands cut
from the word. -/

theorem decode_of_formatA (hi : WellFormed false i = true)
    (he : encode i = formatA op (Machine.low12 w)) (h : w &&& 0xF000 = formatA op 0) :
    decode false w = i := by
  rw [← decode_encode hi, he, low12_eq_addr12, ← nibble3_of_family h, formatA_fields]

theorem decode_of_formatXNN (hi : WellFormed false i = true)
    (he : encode i = formatXNN op (Machine.regX w) (Machine.low8 w))
    (h : w &&& 0xF000 = formatA op 0) : decode false w = i := by
  rw [← decode_encode hi, he, regX_eq_fieldX, low8_eq_byteOf, ← nibble3_of_family h,
    formatXNN_fields]

theorem decode_of_formatXYN (hi : WellFormed false i = true)
    (he : encode i = formatXYN op (Machine.regX w) (Machine.regY w) (Machine.low4 w))
    (h : w &&& 0xF000 = formatA op 0) : decode false w = i := by
  rw [← decode_encode hi, he, regX_eq_fieldX, regY_eq_fieldY, low4_eq_nibble, ← nibble3_of_family h,
    formatXYN_fields]

theorem decode_of_formatXS (hi : WellFormed false i = true)
    (he : encode i = formatXNN op (Machine.regX w) b) (h : w &&& 0xF0FF = formatXNN op 0 b) :
    decode false w = i := by
  obtain ⟨rfl, rfl⟩ := fields_of_family_byte h
  rw [← decode_encode hi, he, regX_eq_fieldX, formatXNN_fields]

theorem decode_of_formatXY (hi : WellFormed false i = true)
    (he : encode i = formatXYN op (Machine.regX w) (Machine.regY w) n)
    (h : w &&& 0xF00F = formatXYN op 0 0 n) : decode false w = i := by
  obtain ⟨rfl, rfl⟩ := fields_of_family_nibble h
  rw [← decode_encode hi, he, regX_eq_fieldX, regY_eq_fieldY, formatXYN_fields]

theorem decode_of_family5 (h : w &&& 0xF000 = formatA 0x5 0) :
    decode false w = .seReg (Machine.regX w) (Machine.regY w) := by
  simp [decode_false, decodeFields, nibble3_of_family h, regX_eq_fieldX, regY_eq_fieldY]

theorem decode_of_family9 (h : w &&& 0xF000 = formatA 0x9 0) :
    decode false w = .sneReg (Machine.regX w) (Machine.regY w) := by
  simp [decode_false, decodeFields, nibble3_of_family h, regX_eq_fieldX, regY_eq_fieldY]

theorem decode_of_00E0 (h : w &&& 0xF0FF = formatXNN 0x0 0 0xE0) : decode false w = .cls := by
  obtain ⟨hop, hb⟩ := fields_of_family_byte h
  simp [decode_false, decodeFields, decodeFamily0, hop, hb]

theorem decode_of_00EE (h : w &&& 0xF0FF = formatXNN 0x0 0 0xEE) : decode false w = .ret := by
  obtain ⟨hop, hb⟩ := fields_of_family_byte h
  simp [decode_false, decodeFields, decodeFamily0, hop, hb]

end Decode

/-- Settles O4: a word that matches a row is the encoding of the row's instruction with the operands cut
from the word, apart from the bits that four rows ignore; and a word that is not unknown matches a row. -/
theorem decodeFollowsTheOpcodeMap : Obligations.DecodeFollowsTheOpcodeMap := by
  unfold Obligations.DecodeFollowsTheOpcodeMap
  intro w
  refine ⟨decode_of_00E0, decode_of_00EE,
    (decode_of_formatA rfl rfl ·), (decode_of_formatA rfl rfl ·), (decode_of_formatXNN rfl rfl ·),
    (decode_of_formatXNN rfl rfl ·), decode_of_family5, (decode_of_formatXNN rfl rfl ·),
    (decode_of_formatXNN rfl rfl ·), (decode_of_formatXY rfl rfl ·), (decode_of_formatXY rfl rfl ·),
    (decode_of_formatXY rfl rfl ·), (decode_of_formatXY rfl rfl ·), (decode_of_formatXY rfl rfl ·),
    (decode_of_formatXY rfl rfl ·), (decode_of_formatXY rfl rfl ·), (decode_of_formatXY rfl rfl ·),
    (decode_of_formatXY rfl rfl ·), decode_of_family9, (decode_of_formatA rfl rfl ·),
    (decode_of_formatA rfl rfl ·), (decode_of_formatXNN rfl rfl ·), (decode_of_formatXYN rfl rfl ·),
    (decode_of_formatXS rfl rfl ·), (decode_of_formatXS rfl rfl ·), (decode_of_formatXS rfl rfl ·),
    (decode_of_formatXS rfl rfl ·), (decode_of_formatXS rfl rfl ·), (decode_of_formatXS rfl rfl ·),
    (decode_of_formatXS rfl rfl ·), (decode_of_formatXS rfl rfl ·), (decode_of_formatXS rfl rfl ·),
    (decode_of_formatXS rfl rfl ·), (decode_of_formatXS rfl rfl ·),
    fun hnone => ?_⟩
  by_contra hu
  obtain ⟨r, hr, -, hmatch, -⟩ := exists_row_of_decodeFields hu
  exact hnone r hr hmatch

/-! ### The one row that a word matches -/

section OneRow

variable {r : OpcodeRow} {w : Word}

theorem mnemonics_nodup : (opcodeRows.map (·.mnemonic)).Nodup := by decide

theorem mnemonic_ne_unknown : ∀ r ∈ opcodeRows, r.mnemonic ≠ "UNKNOWN" := by decide

/-- The clauses of O4, read for the mnemonic alone. -/
theorem mnemonic_of_row_match (hr : r ∈ opcodeRows) (h : w &&& r.mask = r.bits) :
    (decodeFields w).mnemonic = r.mnemonic := by
  have hmap := decodeFollowsTheOpcodeMap
  unfold Obligations.DecodeFollowsTheOpcodeMap at hmap
  have hrows : ∀ r ∈ opcodeRows, w &&& r.mask = r.bits → (decode false w).mnemonic = r.mnemonic := by
    simp only [opcodeRows, rows1to9, rows10to19, rows20to34, List.forall_mem_append,
      List.forall_mem_cons]
    simp +contextual only [hmap w]
    simp [Instr.mnemonic]
  exact hrows r hr h

/-- The matching rows of a word are the rows of the instruction it decodes to (R310). -/
theorem row_match_iff (hr : r ∈ opcodeRows) :
    w &&& r.mask = r.bits ↔ (decodeFields w).mnemonic = r.mnemonic := by
  refine ⟨mnemonic_of_row_match hr, fun hm => ?_⟩
  have hknown : decodeFields w ≠ .unknown w := fun hu =>
    mnemonic_ne_unknown r hr (by rw [← hm, hu]; rfl)
  obtain ⟨r', hr', hm', hmatch, -⟩ := exists_row_of_decodeFields hknown
  have heq : r' = r := List.inj_on_of_nodup_map mnemonics_nodup hr' hr (hm'.trans hm)
  exact heq ▸ hmatch

theorem mnemonic_mem_iff :
    (decodeFields w).mnemonic ∈ opcodeRows.map (·.mnemonic) ↔ decodeFields w ≠ .unknown w := by
  constructor
  · intro hmem hu
    obtain ⟨r, hr, hm⟩ := List.mem_map.1 hmem
    exact mnemonic_ne_unknown r hr (by rw [hm, hu]; rfl)
  · intro hu
    obtain ⟨r, hr, hm, -⟩ := exists_row_of_decodeFields hu
    exact List.mem_map.2 ⟨r, hr, hm⟩

end OneRow

/-- Settles O5: the matching rows are those with the mnemonic of the decoded instruction, and that
mnemonic stands once in the table, or not at all for an unknown word. -/
theorem eachWordHasAtMostOneOpcodeRow : Obligations.EachWordHasAtMostOneOpcodeRow := by
  unfold Obligations.EachWordHasAtMostOneOpcodeRow
  intro w
  calc (opcodeRows.filter (fun r => w &&& r.mask == r.bits)).map (·.mnemonic)
    _ = (opcodeRows.filter (fun r => r.mnemonic == (decodeFields w).mnemonic)).map (·.mnemonic) := by
      congr 1
      refine List.filter_congr fun r hr => ?_
      rw [Bool.eq_iff_iff, beq_iff_eq, beq_iff_eq, row_match_iff hr, eq_comm]
    _ = (opcodeRows.map (·.mnemonic)).filter (· == (decodeFields w).mnemonic) := by
      rw [List.filter_map]
      rfl
    _ = if decodeFields w = .unknown w then [] else [(decodeFields w).mnemonic] := by
      rw [List.filter_beq, mnemonics_nodup.count]
      simp only [mnemonic_mem_iff, ne_eq, ite_not]
      split <;> rfl

/-! ### Canonical words (R306) -/

section Canonical

variable {w : Word}

theorem and_not_eq_self_iff {n : Nat} {a g : BitVec n} : a &&& ~~~g = a ↔ a &&& g = 0 := by
  constructor
  · intro h
    rw [← h, BitVec.and_assoc, BitVec.not_and_self]
    exact BitVec.and_zero
  · intro h
    calc a &&& ~~~g
      _ = a &&& g ||| a &&& ~~~g := by
        rw [h]
        exact BitVec.zero_or.symm
      _ = a := by rw [← BitVec.and_or_distrib_left, BitVec.or_not_self, BitVec.and_allOnes]

/-- A word is canonical when every bit that the decoder ignores is zero. -/
theorem canonical_iff : canonical w = true ↔ w &&& ignoredBits (decodeFields w) = 0 := by
  rw [canonical, beq_iff_eq, encode_decodeFields, and_not_eq_self_iff]

theorem decode_true_eq (w : Word) :
    decode true w = if canonical w then decodeFields w else .unknown w := by
  simp [decode_true, canonical_iff]

/-- The rows with ignored bits are 00E0, 00EE, 5XY0 and 9XY0 (R305). -/
theorem ignoredBits_and_ne_zero_iff (i : Instr) : w &&& ignoredBits i ≠ 0 ↔
    ((i.mnemonic = "00E0" ∨ i.mnemonic = "00EE") ∧ w &&& 0x0F00 ≠ 0) ∨
      ((i.mnemonic = "5XY0" ∨ i.mnemonic = "9XY0") ∧ w &&& 0x000F ≠ 0) := by
  cases i <;> simp [ignoredBits, Instr.mnemonic]

end Canonical

/-- Settles O6: encoding what a word decodes to clears the word's ignored bits. So the canonical words are
those with every ignored bit zero, which is what `STRICT_DECODE` tests. -/
theorem strictDecodeMakesNonCanonicalWordsUnknown :
    Obligations.StrictDecodeMakesNonCanonicalWordsUnknown := by
  unfold Obligations.StrictDecodeMakesNonCanonicalWordsUnknown
  intro w
  refine ⟨?_, ?_, decode_true_eq w⟩
  · rw [canonical, beq_iff_eq, decode_false]
    refine ⟨.inr, ?_⟩
    rintro (hu | h)
    · rw [hu, encode]
    · exact h
  · rw [← Bool.not_eq_true, canonical_iff, ← ne_eq, ignoredBits_and_ne_zero_iff]
    rw [← row_match_iff (r := ⟨"00E0", 0x00E0, 0xF0FF, 0x0F00⟩) (by decide),
      ← row_match_iff (r := ⟨"00EE", 0x00EE, 0xF0FF, 0x0F00⟩) (by decide),
      ← row_match_iff (r := ⟨"5XY0", 0x5000, 0xF000, 0x000F⟩) (by decide),
      ← row_match_iff (r := ⟨"9XY0", 0x9000, 0xF000, 0x000F⟩) (by decide)]

/-- Settles O3: each view cuts its bits out of the word by division, and a canonical word is one that
`STRICT_DECODE` leaves alone. -/
theorem opcodeViewsKeepEveryBit : Obligations.OpcodeViewsKeepEveryBit := by
  unfold Obligations.OpcodeViewsKeepEveryBit
  intro w
  refine ⟨fun pos _ => toNat_nibble w pos, fun pos _ => toNat_byteOf w pos, toNat_addr12 w, ?_,
    wordOfBytes_byteOf w, fun hc => by simp [decode_true_eq, decode_false, hc]⟩
  rw [toNat_addr12, toNat_nibble, toNat_byteOf]
  omega

/-- Settles O8: each word is decoded. -/
theorem wordsFromTheSpecDecode : Obligations.WordsFromTheSpecDecode := by
  unfold Obligations.WordsFromTheSpecDecode
  decide

namespace Machine

/-- Every instruction answers a next state, from every state. The ones that can halt act on what one
operation answers, and both a halt and a completed body are next states. -/
theorem exec_answers (i : Instr) (s : State) : ∃ t, exec i s = .next t := by
  cases i with
  | ret | call _ | drw _ _ _ | skp _ | sknp _ | ldGlyph _ | ldBcd _ | storeRegs _ | loadRegs _ =>
    simp only [exec, execRet, execCall, execDrw, execSkp, execSknp, execLdGlyph, execLdBcd,
      execStoreRegs, execLoadRegs]
    split <;> exact ⟨_, rfl⟩
  | ldKey x =>
    simp only [exec, execLdKey]
    split
    · exact ⟨_, rfl⟩
    · split <;> exact ⟨_, rfl⟩
  | _ => exact ⟨_, rfl⟩

/-- Settles O12: a failed fetch answers the halted state, and otherwise the decoded instruction answers. -/
theorem runningBlockAlwaysAnswers : Obligations.RunningBlockAlwaysAnswers := by
  unfold Obligations.RunningBlockAlwaysAnswers
  intro s hs
  cases hf : s.fetch with
  | none => exact ⟨_, step_of_fetch_none hs hf⟩
  | some w =>
    rw [step_of_fetch hs hf]
    exact exec_answers _ _

end Machine

end Sys2Proof

/-! ## Dispatch

O9 and O10 are the two ways a running block steps, O16 the fallback, O11 an invariant along a schedule.
O13 and O15 rest on one split of an instruction's body by the table of fatal causes: where the table names
a cause the body raises it, and elsewhere it completes, writes what its rule names and leaves the status.
O50 is one equation, `exec_pollInput`. -/

namespace Sys2Proof.Machine

variable {s t u : State} {i : Instr} {c : Cause}

/-! ### Frames of the operations -/

/-- What one change and then another may write is what either may write. -/
theorem OnlyChanges.comp {may may' : Part → Prop} (h : OnlyChanges may s t)
    (h' : OnlyChanges may' t u) : OnlyChanges (fun p => may p ∨ may' p) s u :=
  (h.mono fun _ => .inl).trans (h'.mono fun _ => .inr)

theorem setDT_onlyChanges (v : Word) : OnlyChanges (· ∈ [Part.DT]) s (s.setDT v) := by
  intro p hp
  cases p with
  | DT => simp at hp
  | _ => rfl

theorem setST_onlyChanges (v : Word) : OnlyChanges (· ∈ [Part.ST]) s (s.setST v) := by
  intro p hp
  cases p with
  | ST => simp at hp
  | _ => rfl

theorem setStack_onlyChanges (st : List Word) : OnlyChanges (· ∈ [Part.stack]) s (s.setStack st) := by
  intro p hp
  cases p with
  | stack => simp at hp
  | _ => rfl

theorem setWaitKey_onlyChanges (k : Option Key) :
    OnlyChanges (· ∈ [Part.waitKey]) s (s.setWaitKey k) := by
  intro p hp
  cases p with
  | waitKey => simp at hp
  | _ => rfl

theorem countDraw_onlyChanges : OnlyChanges (· ∈ [Part.draws]) s s.countDraw := by
  intro p hp
  cases p with
  | draws => simp at hp
  | _ => rfl

theorem report_onlyChanges (p w : Word) : OnlyChanges (· ∈ [Part.reports]) s (s.report p w) := by
  intro q hq
  cases q with
  | reports => simp at hq
  | _ => rfl

theorem pollInput_onlyChanges (keys : Vector Bool 16) :
    OnlyChanges (· ∈ [Part.keys]) s (s.pollInput keys) := by
  intro p hp
  cases p with
  | keys => simp at hp
  | _ => rfl

theorem skipIf_onlyChanges (b : Bool) : OnlyChanges (· ∈ [Part.pc]) s (s.skipIf b) := by
  rw [State.skipIf_eq_setPc]
  exact setPc_onlyChanges _

theorem setResultThenFlag_onlyChanges (x : Reg) (r f : Byte) :
    OnlyChanges (fun p => p ∈ [Part.V x] ∨ p ∈ [Part.V VF]) s (s.setResultThenFlag x r f) :=
  (setV_onlyChanges x r).comp (setV_onlyChanges VF f)

theorem setFlagThenResult_onlyChanges (x : Reg) (f r : Byte) :
    OnlyChanges (fun p => p ∈ [Part.V VF] ∨ p ∈ [Part.V x]) s (s.setFlagThenResult x f r) :=
  (setV_onlyChanges VF f).comp (setV_onlyChanges x r)

theorem setRegs_onlyChanges (ps : List (Reg × Byte)) :
    OnlyChanges (fun p => ∃ q ∈ ps, p = .V q.1) s (s.setRegs ps) := by
  intro p hp
  cases p with
  | V r => exact State.getV_setRegs_of_not_mem s fun q hq hr => hp ⟨q, hq, by rw [hr]⟩
  | _ => rw [State.setRegs_eq]; rfl

/-! ### The frame of a store, whatever form memory has -/

theorem Memory.read_write_ne {cfg : Config} {m : Memory} {a b : Nat} (v : Byte) (h : a ≠ b) :
    Memory.read cfg (Memory.write cfg m a v) b = Memory.read cfg m b := by
  unfold Memory.write
  split
  · exact Memory.read_erase_ne h
  · rw [Memory.read_insert, if_neg h]

theorem Memory.read_writeBytes_ne {cfg : Config} {m : Memory} {a b : Nat} {bs : List Byte}
    (h : ∀ k < bs.length, b ≠ a + k) :
    Memory.read cfg (Memory.writeBytes cfg m a bs) b = Memory.read cfg m b := by
  induction bs generalizing a m with
  | nil => rfl
  | cons v bs ih =>
    have hfirst : b ≠ a := h 0 (Nat.succ_pos _)
    have hrest : ∀ k < bs.length, b ≠ a + 1 + k := fun k hk => by
      have := h (k + 1) (Nat.succ_lt_succ hk)
      omega
    rw [Memory.writeBytes, ih hrest, Memory.read_write_ne v hfirst.symm]

theorem writeBytes_onlyChanges (a : Nat) (bs : List Byte) :
    OnlyChanges (fun p => ∃ k < bs.length, p = .byte (a + k)) s
      { s with mem := Memory.writeBytes s.cfg s.mem a bs } := by
  intro p hp
  cases p with
  | byte b => exact Memory.read_writeBytes_ne fun k hk hb => hp ⟨k, hk, by rw [hb]⟩
  | _ => rfl

/-! ### The body of an instruction -/

/-- The table names no cause, so its condition does not hold. -/
theorem not_of_guard_eq_none {p : Prop} [Decidable p]
    (h : (if p then some c else none) = none) : ¬ p := by simpa using h

/-- Where the table names a cause, the body raises it. -/
theorem exec_of_fatalCauseOf (h : fatalCauseOf s i = some c) : exec i s = .next (s.raiseFatal c) := by
  cases i with
  | ret =>
    obtain ⟨hempty, ⟨⟩⟩ := Option.ite_none_right_eq_some.1 h
    exact exec_ret_of_nil hempty
  | call nnn =>
    obtain ⟨hfull, ⟨⟩⟩ := Option.ite_none_right_eq_some.1 h
    exact exec_call_of_ge hfull
  | drw x y n =>
    obtain ⟨hout, ⟨⟩⟩ := Option.ite_none_right_eq_some.1 h
    exact exec_drw_of_gt hout
  | skp x =>
    obtain ⟨hbig, ⟨⟩⟩ := Option.ite_none_right_eq_some.1 h
    exact exec_skp_of_gt hbig
  | sknp x =>
    obtain ⟨hbig, ⟨⟩⟩ := Option.ite_none_right_eq_some.1 h
    exact exec_sknp_of_gt hbig
  | ldGlyph x =>
    obtain ⟨hbig, ⟨⟩⟩ := Option.ite_none_right_eq_some.1 h
    exact exec_ldGlyph_of_gt hbig
  | ldBcd x =>
    obtain ⟨hout, ⟨⟩⟩ := Option.ite_none_right_eq_some.1 h
    exact exec_ldBcd_of_gt hout
  | storeRegs x =>
    obtain ⟨hout, ⟨⟩⟩ := Option.ite_none_right_eq_some.1 h
    exact exec_storeRegs_of_gt hout
  | loadRegs x =>
    obtain ⟨hout, ⟨⟩⟩ := Option.ite_none_right_eq_some.1 h
    exact exec_loadRegs_of_gt hout
  | _ => cases h

/-- No body raises the cause of a failed fetch (R604). -/
theorem fatalCauseOf_ne_fetch (h : fatalCauseOf s i = some c) : c ≠ .fetchOutOfBounds := by
  cases i with
  | ret | call _ | drw _ _ _ | skp _ | sknp _ | ldGlyph _ | ldBcd _ | storeRegs _ | loadRegs _ =>
    obtain ⟨-, ⟨⟩⟩ := Option.ite_none_right_eq_some.1 h
    decide
  | _ => cases h

theorem mayWrite_status_of_fatalCauseOf (h : fatalCauseOf s i = some c) : mayWrite s i .status := by
  cases i with
  | ret | call _ | drw _ _ _ | skp _ | sknp _ | ldGlyph _ | ldBcd _ | storeRegs _ | loadRegs _ =>
    simp [mayWrite]
  | _ => cases h

/-- The body answers a state, having written only what its rule names, and not the status. -/
def Completes (i : Instr) (s : State) : Prop :=
  ∃ t, exec i s = .next t ∧ OnlyChanges (fun p => mayWrite s i p ∧ p ≠ .status) s t

theorem Completes.of_frame {may : Part → Prop} (hx : exec i s = .next t) (hf : OnlyChanges may s t)
    (hmay : ∀ p, may p → mayWrite s i p ∧ p ≠ .status) : Completes i s :=
  ⟨t, hx, hf.mono hmay⟩

theorem completes_ret (h : s.stack ≠ []) : Completes .ret s := by
  obtain ⟨st, v, hst⟩ := (List.eq_nil_or_concat' s.stack).resolve_left h
  exact .of_frame (exec_ret_of_concat hst) ((setStack_onlyChanges _).comp (setPc_onlyChanges _))
    (by simp [mayWrite])

theorem completes_ldKey (x : Reg) : Completes (.ldKey x) s := by
  cases hw : s.waitKey with
  | none =>
    exact .of_frame (exec_ldKey_of_none hw) ((setWaitKey_onlyChanges _).comp (setPc_onlyChanges _))
      (by simp [mayWrite])
  | some k =>
    cases hk : s.keyPressed k with
    | true => exact .of_frame (exec_ldKey_of_held hw hk) (setPc_onlyChanges _) (by simp [mayWrite])
    | false =>
      exact .of_frame (exec_ldKey_of_released hw hk)
        ((setV_onlyChanges _ _).comp (setWaitKey_onlyChanges _)) (by simp [mayWrite])

theorem completes_loadRegs {x : Reg} (h : s.I.toNat + (x.val + 1) ≤ s.cfg.capacity) :
    Completes (.loadRegs x) s := by
  refine .of_frame (exec_loadRegs_of_le h) (setRegs_onlyChanges _) ?_
  rintro _ ⟨q, hq, rfl⟩
  have hle : q.1 ≤ x := mem_regsThrough.1 (List.of_mem_zip hq).1
  exact ⟨.inr ⟨q.1, hle, rfl⟩, nofun⟩

/-- Where the table names no cause, the body completes. -/
theorem completes_of_fatalCauseOf (h : fatalCauseOf s i = none) : Completes i s := by
  cases i with
  | cls => exact .of_frame exec_cls (setFb_onlyChanges _) (by simp [mayWrite])
  | ret => exact completes_ret (not_of_guard_eq_none h)
  | call nnn =>
    exact .of_frame (exec_call_of_lt (Nat.not_le.1 (not_of_guard_eq_none h)))
      ((setStack_onlyChanges _).comp (setPc_onlyChanges _)) (by simp [mayWrite])
  | jp _ | jpOffset _ => exact .of_frame rfl (setPc_onlyChanges _) (by simp [mayWrite])
  | seByte _ _ | sneByte _ _ | seReg _ _ | sneReg _ _ =>
    exact .of_frame rfl (skipIf_onlyChanges _) (by simp [mayWrite])
  | ldByte _ _ | addByte _ _ | ldReg _ _ | ldFromDT _ =>
    exact .of_frame rfl (setV_onlyChanges _ _) (by simp [mayWrite])
  | orReg _ _ | andReg _ _ | xorReg _ _ | addReg _ _ | subReg _ _ | subnReg _ _ =>
    exact .of_frame rfl (setResultThenFlag_onlyChanges _ _ _) (by simp [mayWrite])
  | shr _ _ | shl _ _ => exact .of_frame rfl (setFlagThenResult_onlyChanges _ _ _) (by simp [mayWrite])
  | ldI _ | addI _ => exact .of_frame rfl (setI_onlyChanges _) (by simp [mayWrite])
  | rnd x nn =>
    exact .of_frame rfl (countDraw_onlyChanges.comp (setV_onlyChanges _ _)) (by simp [mayWrite])
  | drw x y n =>
    exact .of_frame (exec_drw_of_le (Nat.not_lt.1 (not_of_guard_eq_none h)))
      ((setFb_onlyChanges _).comp (setV_onlyChanges _ _)) (by simp [mayWrite])
  | skp x =>
    have hkey := Nat.lt_succ_of_le (Nat.not_lt.1 (not_of_guard_eq_none h))
    exact .of_frame (exec_skp_of_key (k := ⟨_, hkey⟩) rfl) (skipIf_onlyChanges _) (by simp [mayWrite])
  | sknp x =>
    have hkey := Nat.lt_succ_of_le (Nat.not_lt.1 (not_of_guard_eq_none h))
    exact .of_frame (exec_sknp_of_key (k := ⟨_, hkey⟩) rfl) (skipIf_onlyChanges _) (by simp [mayWrite])
  | ldKey x => exact completes_ldKey x
  | ldDT _ => exact .of_frame rfl (setDT_onlyChanges _) (by simp [mayWrite])
  | ldST _ => exact .of_frame rfl (setST_onlyChanges _) (by simp [mayWrite])
  | ldGlyph x =>
    have hdigit := Nat.lt_succ_of_le (Nat.not_lt.1 (not_of_guard_eq_none h))
    exact .of_frame (exec_ldGlyph_of_digit (d := ⟨_, hdigit⟩) rfl) (setI_onlyChanges _)
      (by simp [mayWrite])
  | ldBcd x =>
    refine .of_frame (exec_ldBcd_of_le (Nat.not_lt.1 (not_of_guard_eq_none h)))
      (writeBytes_onlyChanges _ _) ?_
    rintro _ ⟨k, hk, rfl⟩
    exact ⟨.inr ⟨k, hk, rfl⟩, nofun⟩
  | storeRegs x =>
    refine .of_frame (exec_storeRegs_of_le (Nat.not_lt.1 (not_of_guard_eq_none h)))
      (writeBytes_onlyChanges _ _) ?_
    rintro _ ⟨k, hk, rfl⟩
    exact ⟨.inr ⟨k, Nat.le_of_lt_succ (by simpa using hk), rfl⟩, nofun⟩
  | loadRegs x => exact completes_loadRegs (Nat.not_lt.1 (not_of_guard_eq_none h))
  | unknown w => exact .of_frame (exec_unknown w) (report_onlyChanges _ _) (by simp [mayWrite])

/-- Everything a body can do when it answers: it raises the table's cause, or it keeps the status and
writes what its rule names. -/
theorem exec_cases (h : exec i s = .next t) :
    (∃ c, fatalCauseOf s i = some c ∧ t = s.raiseFatal c) ∨
      (t.status = s.status ∧ OnlyChanges (mayWrite s i) s t) := by
  cases hc : fatalCauseOf s i with
  | some c =>
    rw [exec_of_fatalCauseOf hc, Host.Outcome.next.injEq] at h
    exact .inl ⟨c, rfl, h.symm⟩
  | none =>
    obtain ⟨u, hu, hframe⟩ := completes_of_fatalCauseOf hc
    rw [h, Host.Outcome.next.injEq] at hu
    subst hu
    exact .inr ⟨hframe .status fun hp => hp.2 rfl, hframe.mono fun _ => And.left⟩

/-- Settles O15: a halt writes the status of an instruction that may write it, and a body that completes
writes what its rule names. -/
theorem instructionsWriteOnlyWhatTheirRulesName :
    Obligations.InstructionsWriteOnlyWhatTheirRulesName := by
  unfold Obligations.InstructionsWriteOnlyWhatTheirRulesName
  intro i s t _ hx
  rcases exec_cases hx with ⟨c, hc, rfl⟩ | ⟨-, hframe⟩
  · refine (halt_onlyChanges _ _ _).mono fun p hp => ?_
    rw [List.mem_singleton.1 hp]
    exact mayWrite_status_of_fatalCauseOf hc
  · exact hframe

/-! ### The step -/

/-- Settles O9: the fetch answers the word at pc, and the pc advance writes pc. -/
theorem stepRunsTheDecodedInstruction : Obligations.StepRunsTheDecodedInstruction := by
  unfold Obligations.StepRunsTheDecodedInstruction
  rintro s w i hs hw rfl
  exact ⟨s.advancePc, step_of_fetch hs.1 (State.fetch_of_wordAt hs hw), BitVec.toNat_add _ _,
    setPc_onlyChanges _⟩

/-- Settles O10: past memory the fetch fails, and the halt it raises writes the status. -/
theorem fetchPastMemoryHaltsTheBlock : Obligations.FetchPastMemoryHaltsTheBlock := by
  unfold Obligations.FetchPastMemoryHaltsTheBlock
  intro s hs hpc
  exact ⟨_, step_of_fetch_none hs (State.fetch_of_ge hpc), rfl, halt_onlyChanges _ _ _⟩

/-- Settles O13: a body that completes leaves the block running, so this one raised a cause; the address
and the word it records are those of the fetch, as only pc has changed since. -/
theorem fatalStepChangesOnlyPcAndStatus : Obligations.FatalStepChangesOnlyPcAndStatus := by
  unfold Obligations.FatalStepChangesOnlyPcAndStatus
  intro s t w hs hw hx hhalted
  rw [step_of_fetch hs.1 (State.fetch_of_wordAt hs hw)] at hx
  rcases exec_cases hx with ⟨c, hc, rfl⟩ | ⟨hstatus, -⟩
  · refine ⟨⟨c, fatalCauseOf_ne_fetch hc, ?_⟩, rfl, ?_⟩
    · rw [State.raiseFatal_status, State.currentAddr_advancePc, State.currentWord_advancePc,
        State.wordAt_iff.1 hw]
    · exact ((setPc_onlyChanges _).comp (halt_onlyChanges _ _ _)).mono (by simp)
  · exact absurd (hstatus.trans hs.1) hhalted

theorem decode_of_no_row {w : Word} (strict : Bool) (h : ∀ r ∈ opcodeRows, w &&& r.mask ≠ r.bits) :
    decode strict w = .unknown w :=
  decode_of_not_mapped (List.any_eq_false.2 fun r hr => by simp [OpcodeRow.takes, h r hr])

/-- Settles O16: a word that no row matches decodes to the fallback, which reports the address before the
pc advance. -/
theorem unknownWordIsReportedAndSkipped : Obligations.UnknownWordIsReportedAndSkipped := by
  unfold Obligations.UnknownWordIsReportedAndSkipped
  refine ⟨fun s w => ⟨_, exec_unknown w, rfl, report_onlyChanges _ _⟩, fun s w hs hw hrows => ?_⟩
  refine ⟨s.advancePc.report s.pc w, ?_, rfl, rfl,
    ((setPc_onlyChanges _).comp (report_onlyChanges _ _)).mono (by simp)⟩
  rw [step_of_fetch hs.1 (State.fetch_of_wordAt hs hw), decode_of_no_row _ hrows, exec_unknown,
    State.currentAddr_advancePc]

/-! ### A halted block -/

theorem State.stepCall_of_halted {p : Word} {w : Option Word} (h : s.status = .halted c p w) :
    s.stepCall = s := by
  simp only [State.stepCall, step_of_halted h]

theorem State.decay_of_halted {p : Word} {w : Option Word} (h : s.status = .halted c p w) (dec : Word) :
    s.decay dec = s := by
  simp only [State.decay, h]

/-- On a halted block a host call is a change of the key levels or nothing. -/
theorem afterCall_onlyChanges_keys {p : Word} {w : Option Word} (h : s.status = .halted c p w)
    (call : HostCall) : OnlyChanges (· ∈ [Part.keys]) s (s.afterCall call) := by
  cases call with
  | step =>
    rw [State.afterCall_step, State.stepCall_of_halted h]
    exact .refl _ _
  | decay dec =>
    rw [State.afterCall_decay, State.decay_of_halted h]
    exact .refl _ _
  | pollInput keys => exact pollInput_onlyChanges keys

/-- Settles O11: that only the key levels differ from the halted state is kept by every host call, since
the status is among what does not differ. -/
theorem haltedBlockStaysFrozen : Obligations.HaltedBlockStaysFrozen := by
  unfold Obligations.HaltedBlockStaysFrozen
  intro s c p w hs
  refine ⟨step_of_halted hs, State.stepCall_of_halted hs, State.decay_of_halted hs,
    State.afterCalls_invariant s (fun t call hsame => ?_) (.refl _ s)⟩
  have hstatus : t.status = s.status := hsame .status (by simp)
  exact hsame.trans (afterCall_onlyChanges_keys (hstatus.trans hs) call)

/-! ### The key levels -/

section Keys

variable (s) (keys : Vector Bool 16)

theorem State.pop_pollInput :
    (s.pollInput keys).pop = s.pop.map fun p => (p.1, p.2.pollInput keys) := by
  unfold State.pop
  rw [State.pollInput_stack]
  cases s.stack.getLast? <;> rfl

theorem State.push_pollInput (v : Word) :
    (s.pollInput keys).push v = (s.push v).map (·.pollInput keys) := by
  rw [State.push_eq, State.push_eq, State.pollInput_stack, State.pollInput_cfg]
  split <;> rfl

theorem State.memWrite_pollInput (a : Nat) (bs : List Byte) :
    (s.pollInput keys).memWrite a bs = (s.memWrite a bs).map (·.pollInput keys) := by
  rw [State.memWrite_eq, State.memWrite_eq, State.pollInput_cfg, State.pollInput_mem]
  split <;> rfl

theorem State.memRead_pollInput (a n : Nat) : (s.pollInput keys).memRead a n = s.memRead a n := rfl

theorem State.hexOperand_pollInput (x : Reg) : (s.pollInput keys).hexOperand x = s.hexOperand x := rfl

theorem State.skipIf_pollInput (b : Bool) :
    (s.pollInput keys).skipIf b = (s.skipIf b).pollInput keys := by
  cases b <;> rfl

theorem State.setRegs_pollInput (ps : List (Reg × Byte)) :
    (s.pollInput keys).setRegs ps = (s.setRegs ps).pollInput keys := by
  induction ps generalizing s with
  | nil => rfl
  | cons p ps ih => exact ih (s.setV p.1 p.2)

/-- Beside EX9E, EXA1 and FX0A, no instruction reads the key levels, and none writes them. -/
theorem exec_pollInput {i : Instr} (hi : ∀ x, i ≠ .skp x ∧ i ≠ .sknp x ∧ i ≠ .ldKey x) :
    exec i (s.pollInput keys) = mapNext (·.pollInput keys) (exec i s) := by
  cases i with
  | skp x => exact absurd rfl (hi x).1
  | sknp x => exact absurd rfl (hi x).2.1
  | ldKey x => exact absurd rfl (hi x).2.2
  | seByte _ _ | sneByte _ _ | seReg _ _ | sneReg _ _ =>
    exact congrArg _ (State.skipIf_pollInput s keys _)
  | ret =>
    simp only [exec, execRet, State.pop_pollInput]
    cases s.pop <;> rfl
  | call nnn =>
    simp only [exec, execCall, State.push_pollInput, State.pollInput_pc]
    cases s.push s.pc <;> rfl
  | drw x y n =>
    simp only [exec, execDrw, State.memRead_pollInput, State.pollInput_I]
    cases s.memRead s.I.toNat n.toNat <;> rfl
  | ldGlyph x =>
    simp only [exec, execLdGlyph, State.hexOperand_pollInput]
    cases s.hexOperand x <;> rfl
  | ldBcd x =>
    simp only [exec, execLdBcd, State.memWrite_pollInput, State.pollInput_I, State.pollInput_getV]
    cases s.memWrite s.I.toNat (bcdDigits (s.getV x)) <;> rfl
  | storeRegs x =>
    have hregs : (s.pollInput keys).getV = s.getV := rfl
    simp only [exec, execStoreRegs, State.memWrite_pollInput, State.pollInput_I, hregs]
    cases s.memWrite s.I.toNat ((regsThrough x).map s.getV) <;> rfl
  | loadRegs x =>
    simp only [exec, execLoadRegs, State.memRead_pollInput, State.pollInput_I,
      State.setRegs_pollInput]
    cases s.memRead s.I.toNat (x.val + 1) <;> rfl
  | _ => rfl

end Keys

/-- Settles O50: under other key levels the instruction answers the same state under those levels. -/
theorem keysMatterOnlyToKeyInstructions : Obligations.KeysMatterOnlyToKeyInstructions := by
  unfold Obligations.KeysMatterOnlyToKeyInstructions
  intro i s t keys hi hx
  rw [exec_pollInput s keys hi, hx, mapNext_next]

end Sys2Proof.Machine

/-! ## Control transfer

Each instruction here is its meaning in Laws/Step.lean followed by the frame of the operations in it.
O22 and O23 are one fact about skips, `answers_skip`. O19 reads the jump back from its word, which is the
encoding of the jump to pc. -/

namespace Sys2Proof.Machine

variable {s : State} {i : Instr}

/-! ### Addresses and offsets -/

/-- An address operand is its value, below 4096 (R303). -/
theorem toNat_addrOperand (nnn : BitVec 12) : (addrOperand nnn).toNat = nnn.toNat :=
  BitVec.toNat_setWidth_of_le (by decide)

/-- A word below 4096 is the operand of its low 12 bits. -/
theorem addrOperand_addr12 {w : Word} (h : w.toNat < 0x1000) : addrOperand (addr12 w) = w :=
  BitVec.eq_of_toNat_eq <| by rw [toNat_addrOperand, toNat_addr12, Nat.mod_eq_of_lt h]

/-- The register of BNNN in modern mode, by arithmetic (R440). -/
theorem offsetReg_eq_ofNat (nnn : BitVec 12) : offsetReg nnn = Fin.ofNat 16 (nnn.toNat / 256) :=
  Fin.ext <| by simp [offsetReg, Nat.shiftRight_eq_div_pow]

/-- A byte added to an address operand does not wrap (D10). -/
theorem toNat_addrOperand_add (nnn : BitVec 12) (b : Byte) :
    (addrOperand nnn + b.setWidth 16).toNat = nnn.toNat + b.toNat := by
  have hn := nnn.isLt
  have hb := b.isLt
  rw [BitVec.toNat_add, toNat_addrOperand, BitVec.toNat_setWidth_of_le (by decide)]
  exact Nat.mod_eq_of_lt (by omega)

/-! ### Returns, jumps and calls -/

theorem setStack_setPc_onlyChanges (st : List Word) (v : Word) :
    OnlyChanges (· ∈ [Part.pc, .stack]) s ((s.setStack st).setPc v) :=
  ((setStack_onlyChanges st).comp (setPc_onlyChanges v)).mono (by simp)

/-- Settles O17: a pop of the empty stack raises the fatal error, and another pop answers the last entry. -/
theorem returnPopsTheStack : Obligations.ReturnPopsTheStack := by
  unfold Obligations.ReturnPopsTheStack
  intro s
  refine ⟨fun hempty => haltsWith_of_raiseFatal (exec_ret_of_nil hempty), fun below top hst => ?_⟩
  exact ⟨_, exec_ret_of_concat hst, rfl, rfl, setStack_setPc_onlyChanges below top⟩

/-- Settles O18: the address operand keeps its value as a pc. -/
theorem jumpSetsPc : Obligations.JumpSetsPc := by
  unfold Obligations.JumpSetsPc
  intro s nnn
  exact ⟨_, exec_jp nnn, toNat_addrOperand nnn, setPc_onlyChanges _⟩

/-- A word 1NNN with NNN an address below 4096 decodes to the jump there (R310). -/
theorem decode_jumpTo (strict : Bool) {w a : Word} (hw : w.toNat = 0x1000 + a.toNat)
    (ha : a.toNat < 0x1000) : decode strict w = .jp (addr12 a) := by
  have hop : nibble w 3 = 0x1 := BitVec.eq_of_toNat_eq <| by
    rw [toNat_nibble, hw]
    change (0x1000 + a.toNat) / 0x1000 % 16 = 1
    omega
  have haddr : addr12 w = addr12 a := BitVec.eq_of_toNat_eq <| by
    rw [toNat_addr12, toNat_addr12, hw, Nat.add_mod_left]
  have hencode : encode (.jp (addr12 a)) = w := calc
    formatA 0x1 (addr12 a)
    _ = formatA (nibble w 3) (addr12 w) := by rw [hop, haddr]
    _ = w := formatA_fields w
  rw [← hencode, decode_encode rfl]

/-- Settles O19: the jump writes back the pc that the fetch advanced. -/
theorem jumpToItselfIsAFixedPoint : Obligations.JumpToItselfIsAFixedPoint := by
  unfold Obligations.JumpToItselfIsAFixedPoint
  intro s w hs hw hself hpc
  calc step s
    _ = exec (.jp (addr12 s.pc)) s.advancePc := by
      rw [step_of_fetch hs.1 (State.fetch_of_wordAt hs hw), decode_jumpTo _ hself hpc]
    _ = .next (s.advancePc.setPc s.pc) := by rw [exec_jp, addrOperand_addr12 hpc]
    _ = .next s := rfl

/-- Settles O20: a push at the bound raises the fatal error, and another push appends the advanced pc. -/
theorem callPushesTheAdvancedPc : Obligations.CallPushesTheAdvancedPc := by
  unfold Obligations.CallPushesTheAdvancedPc
  intro s nnn
  refine ⟨fun hfull => haltsWith_of_raiseFatal (exec_call_of_ge hfull.ge), fun hroom => ?_⟩
  exact ⟨_, exec_call_of_lt hroom, rfl, toNat_addrOperand nnn, setStack_setPc_onlyChanges _ _⟩

/-- Settles O21: the entry that the call appended is the one that the return takes. -/
theorem returnGoesBackAfterTheCall : Obligations.ReturnGoesBackAfterTheCall := by
  unfold Obligations.ReturnGoesBackAfterTheCall
  intro s nnn hroom
  refine ⟨_, exec_call_of_lt hroom, fun u hu => ?_⟩
  exact ⟨_, exec_ret_of_concat hu, rfl, rfl⟩

/-! ### Skips -/

theorem toNat_skipIf_pc (b : Bool) :
    (s.skipIf b).pc.toNat = if b then (s.pc.toNat + 2) % 65536 else s.pc.toNat := by
  cases b with
  | true => exact BitVec.toNat_add s.pc 2
  | false => rfl

/-- What a body that skips on a condition answers (R438). -/
theorem answers_skip {b : Bool} (h : exec i s = .next (s.skipIf b)) :
    ∃ t, exec i s = .next t ∧ OnlyChanges (· ∈ [Part.pc]) s t ∧
      t.pc.toNat = if b then (s.pc.toNat + 2) % 65536 else s.pc.toNat :=
  ⟨_, h, skipIf_onlyChanges b, toNat_skipIf_pc b⟩

/-- Settles O22: both are skips, on equality and on inequality. -/
theorem byteSkipsAddTwoToPc : Obligations.ByteSkipsAddTwoToPc := by
  unfold Obligations.ByteSkipsAddTwoToPc
  intro s x nn
  constructor
  · simpa using answers_skip (s := s) (i := .seByte x nn) rfl
  · simpa using answers_skip (s := s) (i := .sneByte x nn) rfl

/-- Settles O23: both are skips, on equality and on inequality. -/
theorem registerSkipsAddTwoToPc : Obligations.RegisterSkipsAddTwoToPc := by
  unfold Obligations.RegisterSkipsAddTwoToPc
  intro s x y
  constructor
  · simpa using answers_skip (s := s) (i := .seReg x y) rfl
  · simpa using answers_skip (s := s) (i := .sneReg x y) rfl

/-! ### The offset jump -/

theorem exec_jpOffset (nnn : BitVec 12) : exec (.jpOffset nnn) s =
    .next (s.setPc (addrOperand nnn + (s.jumpOffset nnn).setWidth 16)) := rfl

/-- Settles O24: the sum of a 12-bit address and a byte fits pc, and the register is the configured one. -/
theorem offsetJumpAddsTheConfiguredRegister : Obligations.OffsetJumpAddsTheConfiguredRegister := by
  unfold Obligations.OffsetJumpAddsTheConfiguredRegister
  intro s nnn
  refine ⟨_, exec_jpOffset nnn, ?_, setPc_onlyChanges _⟩
  rw [State.setPc_pc, toNat_addrOperand_add, State.jumpOffset, offsetReg_eq_ofNat]

end Sys2Proof.Machine

/-! ## Arithmetic, logic, shifts and random

Every instruction here answers in one of four ways: it writes VX, it writes VX and then VF, it writes VF
and then VX, or it draws a byte and writes VX. What each way leaves in VX and VF, with its frame, is said
once; an obligation then needs the value written, as a number or bit by bit. -/

namespace Sys2Proof.Machine

variable {s : State} {i : Instr} {x : Reg} {result flag : Byte}

/-! ### The values written -/

theorem toNat_flagByte (b : Bool) : (flagByte b).toNat = if b then 1 else 0 := by
  cases b with
  | true => rfl
  | false => rfl

theorem toNat_carryFlag (a b : Byte) :
    (carryFlag a b).toNat = if a.toNat + b.toNat > 255 then 1 else 0 := by
  simp [carryFlag, toNat_flagByte]

theorem toNat_noBorrowFlag (minuend subtrahend : Byte) :
    (noBorrowFlag minuend subtrahend).toNat = if minuend.toNat ≥ subtrahend.toNat then 1 else 0 := by
  simp [noBorrowFlag, toNat_flagByte]

/-- Bit 0 of a byte is its remainder by 2. -/
theorem toNat_shiftRightFlag (src : Byte) : (shiftRightFlag src).toNat = src.toNat % 2 := by
  have hbit : src.toNat % 2 = 0 ∨ src.toNat % 2 = 1 := Nat.mod_two_eq_zero_or_one _
  rw [shiftRightFlag, toNat_flagByte, BitVec.getLsbD, Nat.testBit_zero]
  rcases hbit with h | h <;> simp [h]

/-- Bit 7 of a byte is its quotient by 128. -/
theorem toNat_shiftLeftFlag (src : Byte) : (shiftLeftFlag src).toNat = src.toNat / 128 := by
  have hbit : src.toNat / 128 = 0 ∨ src.toNat / 128 = 1 := by omega
  rw [shiftLeftFlag, toNat_flagByte, BitVec.getLsbD, Nat.testBit_eq_decide_div_mod_eq]
  rcases hbit with h | h <;> simp [h]

theorem toNat_byte_sub (a b : Byte) : (a - b).toNat = (a.toNat + 256 - b.toNat) % 256 := by
  rw [BitVec.toNat_sub]
  omega

/-! ### One register -/

/-- What a body that writes one register answers. -/
theorem answers_setV (h : exec i s = .next (s.setV x result)) :
    ∃ t, exec i s = .next t ∧ t.getV x = result ∧ OnlyChanges (· ∈ [Part.V x]) s t :=
  ⟨_, h, State.getV_setV_same s x result, setV_onlyChanges x result⟩

/-- Settles O25: each writes its operand to VX. -/
theorem registerLoadsWriteOneRegister : Obligations.RegisterLoadsWriteOneRegister := by
  unfold Obligations.RegisterLoadsWriteOneRegister
  intro s x y nn
  exact ⟨answers_setV rfl, answers_setV rfl⟩

/-- Settles O26: the sum of two bytes is taken modulo 256. -/
theorem addByteWrapsAndSetsNoFlag : Obligations.AddByteWrapsAndSetsNoFlag := by
  unfold Obligations.AddByteWrapsAndSetsNoFlag
  intro s x nn
  obtain ⟨t, hx, hV, hframe⟩ := answers_setV (s := s) (i := .addByte x nn) rfl
  exact ⟨t, hx, by rw [hV, BitVec.toNat_add], hframe⟩

/-! ### The result, then the flag -/

/-- What a body that writes the flag last answers: VF is the flag, also when it is VX (R408, D14). -/
theorem answers_resultThenFlag (h : exec i s = .next (s.setResultThenFlag x result flag)) :
    ∃ t, exec i s = .next t ∧ t.getV VF = flag ∧ (x ≠ VF → t.getV x = result) ∧
      OnlyChanges (· ∈ [Part.V x, .V VF]) s t := by
  refine ⟨_, h, ?_, fun hne => ?_, (setResultThenFlag_onlyChanges x result flag).mono (by simp)⟩
  · rw [State.getV_setResultThenFlag, if_pos rfl]
  · rw [State.getV_setResultThenFlag, if_neg hne, if_pos rfl]

/-- What a logic operation answers, from the bits of its result. -/
theorem answers_logic {bit : Nat → Bool} (h : exec i s = .next (s.setResultThenFlag x result 0x00))
    (hbits : ∀ b, result.getLsbD b = bit b) :
    ∃ t, exec i s = .next t ∧ t.getV VF = 0x00 ∧ (x ≠ VF → ∀ b < 8, (t.getV x).getLsbD b = bit b) ∧
      OnlyChanges (· ∈ [Part.V x, .V VF]) s t := by
  obtain ⟨t, hx, hflag, hresult, hframe⟩ := answers_resultThenFlag h
  exact ⟨t, hx, hflag, fun hne b _ => by rw [hresult hne, hbits], hframe⟩

/-- Settles O27: the results are the bitwise operations of the library. -/
theorem logicOperationsClearVF : Obligations.LogicOperationsClearVF := by
  unfold Obligations.LogicOperationsClearVF
  intro s x y
  exact ⟨answers_logic rfl fun _ => BitVec.getLsbD_or, answers_logic rfl fun _ => BitVec.getLsbD_and,
    answers_logic rfl fun _ => BitVec.getLsbD_xor⟩

/-- Settles O28: the result is the sum modulo 256, and the flag is taken from the unbounded sum. -/
theorem addSetsTheCarry : Obligations.AddSetsTheCarry := by
  unfold Obligations.AddSetsTheCarry
  intro s x y
  obtain ⟨t, hx, hflag, hresult, hframe⟩ := answers_resultThenFlag (s := s) (i := .addReg x y) rfl
  exact ⟨t, hx, fun hne => by rw [hresult hne, BitVec.toNat_add], by rw [hflag, toNat_carryFlag],
    hframe⟩

/-- What a subtraction answers, whichever operand is the minuend. -/
theorem answers_subtraction {minuend subtrahend : Byte}
    (h : exec i s = .next
      (s.setResultThenFlag x (minuend - subtrahend) (noBorrowFlag minuend subtrahend))) :
    ∃ t, exec i s = .next t ∧
      (x ≠ VF → (t.getV x).toNat = (minuend.toNat + 256 - subtrahend.toNat) % 256) ∧
      (t.getV VF).toNat = (if minuend.toNat ≥ subtrahend.toNat then 1 else 0) ∧
      OnlyChanges (· ∈ [Part.V x, .V VF]) s t := by
  obtain ⟨t, hx, hflag, hresult, hframe⟩ := answers_resultThenFlag h
  exact ⟨t, hx, fun hne => by rw [hresult hne, toNat_byte_sub], by rw [hflag, toNat_noBorrowFlag],
    hframe⟩

/-- Settles O29: both are subtractions, with VX and with VY as the minuend. -/
theorem subtractionsSetNoBorrow : Obligations.SubtractionsSetNoBorrow := by
  unfold Obligations.SubtractionsSetNoBorrow
  intro s x y
  exact ⟨answers_subtraction rfl, answers_subtraction rfl⟩

/-! ### The flag, then the result -/

/-- What a body that writes the result last answers: VX is the result, also when it is VF (R408, D14). -/
theorem answers_flagThenResult (h : exec i s = .next (s.setFlagThenResult x flag result)) :
    ∃ t, exec i s = .next t ∧ t.getV x = result ∧ (x ≠ VF → t.getV VF = flag) ∧
      OnlyChanges (· ∈ [Part.V x, .V VF]) s t := by
  refine ⟨_, h, ?_, fun hne => ?_,
    (setFlagThenResult_onlyChanges x flag result).mono (by simp [or_comm])⟩
  · rw [State.getV_setFlagThenResult, if_pos rfl]
  · rw [State.getV_setFlagThenResult, if_neg hne.symm, if_pos rfl]

/-- Settles O30: a shift by one halves or doubles the source, and the flag is the bit that it loses. -/
theorem shiftsMoveTheConfiguredSource : Obligations.ShiftsMoveTheConfiguredSource := by
  unfold Obligations.ShiftsMoveTheConfiguredSource
  intro s x y src hsrc
  obtain rfl : src = s.shiftSource x y := hsrc
  constructor
  · obtain ⟨t, hx, hresult, hflag, hframe⟩ := answers_flagThenResult (s := s) (i := .shr x y) rfl
    exact ⟨t, hx, by rw [hresult, BitVec.toNat_ushiftRight, Nat.shiftRight_one],
      fun hne => by rw [hflag hne, toNat_shiftRightFlag], hframe⟩
  · obtain ⟨t, hx, hresult, hflag, hframe⟩ := answers_flagThenResult (s := s) (i := .shl x y) rfl
    exact ⟨t, hx, by rw [hresult, BitVec.toNat_shiftLeft, Nat.shiftLeft_eq],
      fun hne => by rw [hflag hne, toNat_shiftLeftFlag], hframe⟩

/-! ### Random -/

section Random

variable (r nn : Byte)

theorem getV_rndWith : (rndWith r x nn s).getV x = r &&& nn := State.getV_setV_same _ x _

/-- No bit outside the mask is set, whatever byte is drawn (R480). -/
theorem getV_rndWith_and_not_mask : (rndWith r x nn s).getV x &&& ~~~nn = 0 := by
  rw [getV_rndWith, BitVec.and_assoc, BitVec.and_not_self]
  exact BitVec.and_zero

theorem rndWith_onlyChanges : OnlyChanges (· ∈ [Part.V x, .draws]) s (rndWith r x nn s) :=
  (countDraw_onlyChanges.comp (setV_onlyChanges x (r &&& nn))).mono (by simp [or_comm])

end Random

/-- Settles O31: what `rndWith` does for every byte it does for the byte drawn. -/
theorem randomIsMaskedAndDrawnOnce : Obligations.RandomIsMaskedAndDrawnOnce := by
  unfold Obligations.RandomIsMaskedAndDrawnOnce
  intro s x nn
  refine ⟨rndWith s.randomByte x nn s, rfl, fun b _ => ?_, getV_rndWith_and_not_mask _ nn, rfl,
    rndWith_onlyChanges _ nn⟩
  rw [getV_rndWith, BitVec.getLsbD_and, State.randomByte]

end Sys2Proof.Machine

/-! ## The index register and memory through it

O32 and O33 write I and nothing else, `answers_setI`. O34 and O35 each write a list of bytes from I up, and
O36 writes a list of registers read from there; each list is indexed by the offset from I. Outside its
bounds each body raises its fatal error, which `haltsWith_of_raiseFatal` turns into the halt. -/

namespace Sys2Proof.Machine

variable {s : State} {i : Instr} {x r : Reg}

/-! ### The index register -/

/-- What a body that writes I answers. -/
theorem answers_setI {v : Word} {n : Nat} (h : exec i s = .next (s.setI v)) (hv : v.toNat = n) :
    ∃ t, exec i s = .next t ∧ t.I.toNat = n ∧ OnlyChanges (· ∈ [Part.I]) s t :=
  ⟨_, h, hv, setI_onlyChanges v⟩

theorem toNat_word_add_byte (a : Word) (b : Byte) :
    (a + b.setWidth 16).toNat = (a.toNat + b.toNat) % 65536 := by
  rw [BitVec.toNat_add, BitVec.toNat_setWidth_of_le (by decide)]

/-- Settles O32: ANNN writes its operand and FX1E a sum modulo 65536. -/
theorem indexLoadsAndAdds : Obligations.IndexLoadsAndAdds := by
  unfold Obligations.IndexLoadsAndAdds
  intro s x nnn
  exact ⟨answers_setI rfl (toNat_addrOperand nnn), answers_setI rfl (toNat_word_add_byte _ _)⟩

/-- A glyph's address does not wrap (R212). -/
theorem toNat_glyphAddr (d : Fin 16) : (glyphAddr d).toNat = fontStart + glyphBytes * d.val := by
  have hd := d.isLt
  rw [glyphAddr, BitVec.toNat_ofNat]
  exact Nat.mod_eq_of_lt (by simp only [fontStart, glyphBytes]; omega)

/-- Settles O33: VX is a digit, whose glyph address is written to I, or it is above 15. -/
theorem glyphAddressOrDigitOutOfRange : Obligations.GlyphAddressOrDigitOutOfRange := by
  unfold Obligations.GlyphAddressOrDigitOutOfRange
  intro s x
  refine ⟨fun hbig => haltsWith_of_raiseFatal (exec_ldGlyph_of_gt hbig), fun hdigit => ?_⟩
  exact answers_setI (exec_ldGlyph_of_digit (d := ⟨_, Nat.lt_succ_of_le hdigit⟩) rfl) (toNat_glyphAddr _)

/-! ### Decimal digits -/

/-- The state after FX33 with its extent in bounds (R515). -/
def State.storedDigits (s : State) (x : Reg) : State :=
  { s with mem := Memory.writeBytes s.cfg s.mem s.I.toNat (bcdDigits (s.getV x)) }

theorem exec_ldBcd_eq_storedDigits (h : s.I.toNat + 3 ≤ s.cfg.capacity) :
    exec (.ldBcd x) s = .next (s.storedDigits x) := exec_ldBcd_of_le h

theorem storedDigits_onlyChanges :
    OnlyChanges (fun p => ∃ k < 3, p = Part.byte (s.I.toNat + k)) s (s.storedDigits x) :=
  writeBytes_onlyChanges s.I.toNat (bcdDigits (s.getV x))

/-- FX33 leaves each digit at its own offset from I, the hundreds first (R214, R515). -/
theorem State.peek_storedDigits (h : Memory.wf s.cfg s.mem) (k : Fin 3) :
    (s.storedDigits x).peek (s.I.toNat + k) = (bcdDigits (s.getV x))[k.val]'k.isLt :=
  Memory.read_writeBytes_add h k.isLt

/-- Settles O34: the three bytes written are the digits of VX, or the extent leaves memory. -/
theorem bcdStoresThreeDigitsAtI : Obligations.BcdStoresThreeDigitsAtI := by
  unfold Obligations.BcdStoresThreeDigitsAtI
  intro s x
  refine ⟨fun hout => haltsWith_of_raiseFatal (exec_ldBcd_of_gt hout), fun hfits hmem => ?_⟩
  have hundreds : (s.storedDigits x).peek s.I.toNat = s.getV x / 100 := State.peek_storedDigits hmem 0
  have tens : (s.storedDigits x).peek (s.I.toNat + 1) = s.getV x / 10 % 10 :=
    State.peek_storedDigits hmem 1
  have ones : (s.storedDigits x).peek (s.I.toNat + 2) = s.getV x % 10 := State.peek_storedDigits hmem 2
  refine ⟨_, exec_ldBcd_eq_storedDigits hfits, ?_, ?_, ?_, storedDigits_onlyChanges⟩
  · simp [hundreds]
  · simp [tens]
  · simp [ones]

/-! ### Registers stored -/

/-- FX55 writes a byte for each register up to VX and nothing else (R525). -/
theorem storedRegs_onlyChanges :
    OnlyChanges (fun p => ∃ r : Reg, r ≤ x ∧ p = Part.byte (s.I.toNat + r.val)) s (s.storedRegs x) := by
  refine (writeBytes_onlyChanges _ _).mono ?_
  rintro _ ⟨k, hk, rfl⟩
  have hkx : k < x.val + 1 := by simpa using hk
  exact ⟨⟨k, by omega⟩, Nat.le_of_lt_succ hkx, rfl⟩

/-- Settles O35: each register up to VX is written at its own offset, or the extent leaves memory. -/
theorem bulkStoreWritesRegistersAtI : Obligations.BulkStoreWritesRegistersAtI := by
  unfold Obligations.BulkStoreWritesRegistersAtI
  intro s x
  refine ⟨fun hout => haltsWith_of_raiseFatal (exec_storeRegs_of_gt hout), fun hfits hmem => ?_⟩
  exact ⟨_, exec_storeRegs_eq_storedRegs hfits, fun _ => State.peek_storedRegs hmem,
    storedRegs_onlyChanges⟩

/-! ### Registers loaded -/

theorem nodup_regsThrough (x : Reg) : (regsThrough x).Nodup :=
  (List.nodup_finRange 16).sublist (List.take_sublist _ _)

/-- A register that the list names once gets the byte the list gives it. -/
theorem State.getV_setRegs_of_mem {ps : List (Reg × Byte)} {b : Byte} (hps : (ps.map Prod.fst).Nodup)
    (h : (r, b) ∈ ps) : (s.setRegs ps).getV r = b := by
  induction ps generalizing s with
  | nil => cases h
  | cons p ps ih =>
    obtain ⟨hp, hrest⟩ := List.nodup_cons.1 hps
    rw [State.setRegs_cons]
    rcases List.mem_cons.1 h with rfl | h
    · have hlater : ∀ q ∈ ps, q.1 ≠ r := fun q hq hqr => hp (List.mem_map.2 ⟨q, hq, hqr⟩)
      rw [State.getV_setRegs_of_not_mem _ hlater, State.getV_setV_same]
    · exact ih hrest h

/-- The registers up to VX, each with the byte at its own offset from I (R216). -/
def State.loadPairs (s : State) (x : Reg) : List (Reg × Byte) :=
  (regsThrough x).zip (Memory.readBytes s.cfg s.mem s.I.toNat (x.val + 1))

theorem exec_loadRegs_eq_setRegs (h : s.I.toNat + (x.val + 1) ≤ s.cfg.capacity) :
    exec (.loadRegs x) s = .next (s.setRegs (s.loadPairs x)) := exec_loadRegs_of_le h

theorem State.map_fst_loadPairs : (s.loadPairs x).map Prod.fst = regsThrough x :=
  List.map_fst_zip (by simp)

theorem State.mem_loadPairs (hr : r ≤ x) : (r, s.peek (s.I.toNat + r.val)) ∈ s.loadPairs x := by
  have hlen : r.val < (s.loadPairs x).length := by
    simpa [State.loadPairs] using Nat.lt_succ_of_le hr
  have hget : (s.loadPairs x)[r.val] = (r, s.peek (s.I.toNat + r.val)) := by
    simp only [State.loadPairs, List.getElem_zip, getElem_regsThrough, Memory.getElem_readBytes]
    rfl
  exact hget ▸ List.getElem_mem hlen

/-- FX65 writes the registers up to VX and nothing else (R530). -/
theorem setRegs_loadPairs_onlyChanges :
    OnlyChanges (fun p => ∃ r : Reg, r ≤ x ∧ p = Part.V r) s (s.setRegs (s.loadPairs x)) := by
  refine (setRegs_onlyChanges _).mono ?_
  rintro _ ⟨q, hq, rfl⟩
  exact ⟨q.1, mem_regsThrough.1 (List.of_mem_zip hq).1, rfl⟩

/-- Settles O36: each register up to VX is named once, with the byte at its own offset, or the extent
leaves memory. -/
theorem bulkLoadReadsRegistersFromI : Obligations.BulkLoadReadsRegistersFromI := by
  unfold Obligations.BulkLoadReadsRegistersFromI
  intro s x
  refine ⟨fun hout => haltsWith_of_raiseFatal (exec_loadRegs_of_gt hout), fun hfits => ?_⟩
  have honce : ((s.loadPairs x).map Prod.fst).Nodup := State.map_fst_loadPairs ▸ nodup_regsThrough x
  exact ⟨_, exec_loadRegs_eq_setRegs hfits,
    fun _ hr => State.getV_setRegs_of_mem honce (State.mem_loadPairs hr), setRegs_loadPairs_onlyChanges⟩

end Sys2Proof.Machine

/-! ## Display and key input

A sprite is drawn pixel by pixel over `spritePixels`, the positions of its set bits. No position comes twice,
so drawing flips each one on the display once, and the collision is told by the grid as it stood: O39, and
from it O40 and O41. Each phase of FX0A is its meaning in Laws/Step.lean, from which O43 is read, and O44
and O45 through a step that fetches the word. -/

namespace Sys2Proof.Machine

/-! ### The pixels of a sprite -/

/-- The positions of the set bits of sprite rows drawn from column `x0` and row `row` on, before any is
dropped at an edge (R543, R544). -/
def spritePixels (x0 : Nat) : Nat → List Byte → List Pixel
  | _, [] => []
  | row, b :: bs => (spriteColumns b).map (fun k => ⟨x0 + k, row⟩) ++ spritePixels x0 (row + 1) bs

/-- The cell is on the display (R541). -/
def Pixel.OnDisplay (cfg : Config) (p : Pixel) : Prop := p.col < cfg.displayW ∧ p.row < cfg.displayH

section Pixels

variable {cfg : Config} {g : Grid} {gc : Grid × Bool} {p q : Pixel} {ps : List Pixel} {x0 row : Nat}
  {b : Byte} {rows : List Byte}

theorem drawRows_eq_foldl :
    drawRows cfg x0 row rows gc = (spritePixels x0 row rows).foldl (drawPixel cfg) gc := by
  induction rows generalizing row gc with
  | nil => rfl
  | cons b bs ih => rw [drawRows, ih, spritePixels, List.foldl_append, List.foldl_map, drawRow]

theorem mem_spriteColumns {k : Nat} : k ∈ spriteColumns b ↔ k < 8 ∧ b.getLsbD (7 - k) = true := by
  simp [spriteColumns]

/-- A sprite has a pixel for every set bit, bit 7 of a row the leftmost (R544). -/
theorem mem_spritePixels : p ∈ spritePixels x0 row rows ↔
    ∃ r b : Nat, ∃ hr : r < rows.length, b < 8 ∧ p.row = row + r ∧ p.col = x0 + b ∧
      rows[r].getLsbD (7 - b) = true := by
  induction rows generalizing row with
  | nil => simp [spritePixels]
  | cons b bs ih =>
    rw [spritePixels, List.mem_append, ih, List.mem_map]
    constructor
    · rintro (⟨k, hk, rfl⟩ | ⟨r, k, hr, hk, hrow, hcol, hbit⟩)
      · obtain ⟨hk, hbit⟩ := mem_spriteColumns.1 hk
        exact ⟨0, k, Nat.succ_pos _, hk, rfl, rfl, hbit⟩
      · exact ⟨r + 1, k, Nat.succ_lt_succ hr, hk, by omega, hcol, hbit⟩
    · rintro ⟨r, k, hr, hk, hrow, hcol, hbit⟩
      cases r with
      | zero => exact .inl ⟨k, mem_spriteColumns.2 ⟨hk, hbit⟩, congrArg₂ Pixel.mk hcol.symm hrow.symm⟩
      | succ r => exact .inr ⟨r, k, Nat.lt_of_succ_lt_succ hr, hk, by omega, hcol, hbit⟩

/-- The pixels of one row differ in their columns, those of two rows in their rows. -/
theorem nodup_spritePixels : (spritePixels x0 row rows).Nodup := by
  induction rows generalizing row with
  | nil => exact .nil
  | cons b bs ih =>
    have hinj : Function.Injective fun k => Pixel.mk (x0 + k) row := fun j k h => by simpa using h
    refine List.nodup_append.2 ⟨(List.nodup_range.filter _).map hinj, ih, fun p hp q hq hpq => ?_⟩
    obtain ⟨k, -, rfl⟩ := List.mem_map.1 hp
    obtain ⟨r, -, -, -, hrow, -⟩ := mem_spritePixels.1 (hpq ▸ hq)
    simp only at hrow
    omega

theorem spriteCovers_iff {x y : Byte} : SpriteCovers cfg rows x y p ↔
    p ∈ spritePixels (x.toNat % cfg.displayW) (y.toNat % cfg.displayH) rows ∧ p.OnDisplay cfg := by
  rw [mem_spritePixels, SpriteCovers, Pixel.OnDisplay, ← and_assoc, and_comm]

/-! ### Drawing pixels -/

/-- Drawing a pixel flips its cell when it is on the display (R543). -/
theorem mem_drawPixel (h : Grid.wf cfg gc.1) :
    q ∈ (drawPixel cfg gc p).1 ↔ (q ∈ gc.1 ↔ ¬ (q = p ∧ q.OnDisplay cfg)) := by
  unfold drawPixel
  split
  · next hp =>
    rw [Grid.mem_toggle h.1]
    split
    · next he => subst he; simp [Pixel.OnDisplay, hp]
    · next hne => simp [hne]
  · next hp =>
    have hnot : ¬ (q = p ∧ q.OnDisplay cfg) := by rintro ⟨rfl, hq⟩; exact hp hq
    simp [hnot]

/-- Drawing a pixel collides when it is on the display and its cell was lit (R545). -/
theorem drawPixel_collides :
    (drawPixel cfg gc p).2 = true ↔ gc.2 = true ∨ (p.OnDisplay cfg ∧ p ∈ gc.1) := by
  unfold drawPixel
  split
  · next hp => simp [Pixel.OnDisplay, hp]
  · next hp => simp [Pixel.OnDisplay, hp]

/-- Drawing different pixels flips the cell of each that is on the display. -/
theorem mem_drawPixels (h : Grid.wf cfg gc.1) (hps : ps.Nodup) :
    q ∈ (ps.foldl (drawPixel cfg) gc).1 ↔ (q ∈ gc.1 ↔ ¬ (q ∈ ps ∧ q.OnDisplay cfg)) := by
  induction ps generalizing gc with
  | nil => simp
  | cons p ps ih =>
    obtain ⟨hp, hps⟩ := List.nodup_cons.1 hps
    rw [List.foldl_cons, ih (drawPixel_wf h) hps, mem_drawPixel h, List.mem_cons]
    by_cases hq : q = p
    · subst hq
      simp [hp]
    · simp [hq]

/-- Drawing different pixels collides when one is on the display and its cell was lit at the start. -/
theorem drawPixels_collides (h : Grid.wf cfg gc.1) (hps : ps.Nodup) :
    (ps.foldl (drawPixel cfg) gc).2 = true ↔
      gc.2 = true ∨ ∃ q ∈ gc.1, q ∈ ps ∧ q.OnDisplay cfg := by
  induction ps generalizing gc with
  | nil => simp
  | cons p ps ih =>
    obtain ⟨hp, hps⟩ := List.nodup_cons.1 hps
    have hlater : ∀ q ∈ ps, (q ∈ (drawPixel cfg gc p).1 ↔ q ∈ gc.1) := fun q hq => by
      have hne : q ≠ p := fun he => hp (he ▸ hq)
      simp [mem_drawPixel h, hne]
    rw [List.foldl_cons, ih (drawPixel_wf h) hps, drawPixel_collides, or_assoc]
    refine or_congr_right ⟨?_, ?_⟩
    · rintro (⟨hon, hlit⟩ | ⟨q, hlit, hq, hon⟩)
      · exact ⟨p, hlit, List.mem_cons_self, hon⟩
      · exact ⟨q, (hlater q hq).1 hlit, List.mem_cons_of_mem _ hq, hon⟩
    · rintro ⟨q, hlit, hq, hon⟩
      rcases List.mem_cons.1 hq with rfl | hq
      · exact .inl ⟨hon, hlit⟩
      · exact .inr ⟨q, (hlater q hq).2 hlit, hq, hon⟩

/-! ### Drawing a sprite -/

theorem mem_drawSprite (h : Grid.wf cfg g) (x y : Byte) :
    p ∈ (drawSprite cfg g rows x y).1 ↔ (p ∈ g ↔ ¬ SpriteCovers cfg rows x y p) := by
  rw [drawSprite, drawRows_eq_foldl, mem_drawPixels h nodup_spritePixels, spriteCovers_iff]

theorem drawSprite_collides (h : Grid.wf cfg g) (x y : Byte) :
    (drawSprite cfg g rows x y).2 = true ↔ ∃ p ∈ g, SpriteCovers cfg rows x y p := by
  rw [drawSprite, drawRows_eq_foldl, drawPixels_collides h nodup_spritePixels]
  simp [spriteCovers_iff]

@[simp] theorem Grid.lit_eq_false_iff : g.lit p = false ↔ p ∉ g := by simp [Grid.lit]

/-- Equal cells mean equal data: the canonical form of a grid is unique. -/
theorem Grid.ext_of_wf {g₁ g₂ : Grid} (h₁ : Grid.wf cfg g₁) (h₂ : Grid.wf cfg g₂)
    (h : ∀ p, p ∈ g₁ ↔ p ∈ g₂) : g₁ = g₂ :=
  have : Std.Irrefl Pixel.before := ⟨fun _ => Pixel.before_irrefl⟩
  have : Std.Antisymm Pixel.before :=
    ⟨fun _ _ hpq hqp => absurd (Pixel.before_trans hpq hqp) Pixel.before_irrefl⟩
  h₁.1.eq_of_mem_iff h₂.1 h

end Pixels

/-- Settles O39: a cell is lit after the draw exactly when being lit before and being covered differ. -/
theorem drawSpriteFlipsTheCoveredCells : Obligations.DrawSpriteFlipsTheCoveredCells := by
  unfold Obligations.DrawSpriteFlipsTheCoveredCells
  intro cfg g rows x y h
  refine ⟨fun p => ?_, ?_⟩
  · rw [Grid.lit_iff, Grid.lit_iff, Grid.lit_eq_false_iff, mem_drawSprite h]
    tauto
  · simp only [drawSprite_collides h, Grid.lit_iff]

/-- Settles O40: a cell flipped twice is as it was, and the cells the second draw finds lit are the covered
ones that were off. -/
theorem drawingTwiceRestoresTheGrid : Obligations.DrawingTwiceRestoresTheGrid := by
  unfold Obligations.DrawingTwiceRestoresTheGrid
  intro cfg g rows x y h
  have hdrawn := drawSprite_wf h rows x y
  refine ⟨Grid.ext_of_wf (drawSprite_wf hdrawn rows x y) h fun p => ?_, ?_⟩
  · rw [mem_drawSprite hdrawn, mem_drawSprite h]
    tauto
  · simp only [drawSprite_collides hdrawn, mem_drawSprite h, Grid.lit_eq_false_iff]
    refine exists_congr fun p => and_congr_left fun hp => ?_
    simp [hp]

section Instructions

variable {s t : State} {x y : Reg} {k : Key} {w : Word}

/-! ### The display instructions -/

/-- A list of `n` bytes that memory holds from `a` on is what is read there (R213). -/
theorem Memory.readBytes_eq {a n : Nat} {bs : List Byte} (hn : bs.length = n)
    (h : ∀ k, ∀ hk : k < bs.length, bs[k] = s.peek (a + k)) : Memory.readBytes s.cfg s.mem a n = bs :=
  List.ext_getElem (by simp [hn]) fun k hk hk' => by
    rw [Memory.getElem_readBytes, h k hk', State.peek]

theorem setFb_setV_onlyChanges (g : Grid) (r : Reg) (b : Byte) :
    OnlyChanges (· ∈ [Part.fb, .V r]) s ((s.setFb g).setV r b) :=
  ((setFb_onlyChanges g).comp (setV_onlyChanges r b)).mono (by simp)

/-- Settles O38: no cell is in the empty grid. -/
theorem clearScreenTurnsEveryCellOff : Obligations.ClearScreenTurnsEveryCellOff := by
  unfold Obligations.ClearScreenTurnsEveryCellOff
  intro s
  exact ⟨_, exec_cls, fun _ => rfl, setFb_onlyChanges _⟩

/-- Settles O41: the rows are the bytes read at I, what their draw does is O39, and VF is written after
the grid. -/
theorem drawSetsVFToTheCollision : Obligations.DrawSetsVFToTheCollision := by
  unfold Obligations.DrawSetsVFToTheCollision
  intro s x y n
  refine ⟨fun hout => haltsWith_of_raiseFatal (exec_drw_of_gt hout), ?_⟩
  intro rows hfits hfb hlen hrows
  have hx := exec_drw_of_le (x := x) (y := y) hfits
  rw [Memory.readBytes_eq hlen hrows] at hx
  obtain ⟨hlit, hcollides⟩ := drawSpriteFlipsTheCoveredCells s.cfg s.fb rows (s.getV x) (s.getV y) hfb
  refine ⟨_, hx, hlit, fun hhit => ?_, fun hmiss => ?_, setFb_setV_onlyChanges _ _ _⟩
  · rw [State.getV_setV_same, hcollides.2 hhit]
    rfl
  · rw [State.getV_setV_same, Bool.eq_false_iff.2 (mt hcollides.1 hmiss)]
    rfl

/-! ### The key skips -/

/-- Settles O42: VX above 15 raises the fatal error, and another VX names the key that the skip reads. -/
theorem keySkipsReadTheKeyLevel : Obligations.KeySkipsReadTheKeyLevel := by
  unfold Obligations.KeySkipsReadTheKeyLevel
  intro s x
  refine ⟨fun hbig => ⟨haltsWith_of_raiseFatal (exec_skp_of_gt hbig),
    haltsWith_of_raiseFatal (exec_sknp_of_gt hbig)⟩, fun k hk => ⟨?_, ?_⟩⟩
  · exact answers_skip (exec_skp_of_key hk)
  · simpa only [State.keyPressed, Bool.not_eq_true', ← Bool.not_eq_true, ite_not] using
      answers_skip (exec_sknp_of_key hk)

/-! ### The key wait -/

theorem toNat_keyCode (k : Key) : (keyCode k).toNat = k.val := by
  rw [keyCode, BitVec.toNat_ofNat]
  exact Nat.mod_eq_of_lt (by omega)

theorem exec_ldKey_of_no_press (hw : s.waitKey = none) (hkeys : ∀ k, s.keyPressed k = false) :
    exec (.ldKey x) s = .next s.retreatPc := by
  rw [exec_ldKey_of_none hw, s.lowestHeld_eq_none.2 hkeys, ← hw]
  rfl

theorem exec_ldKey_of_press (hw : s.waitKey = none) (hk : s.keyPressed k = true)
    (hlow : ∀ j < k, s.keyPressed j = false) :
    exec (.ldKey x) s = .next (s.setWaitKey (some k)).retreatPc := by
  rw [exec_ldKey_of_none hw, s.lowestHeld_eq_some.2 ⟨hk, hlow⟩]

/-- Settles O43: each phase is one meaning of FX0A, with the frame of what it writes. -/
theorem keyWaitFollowsItsTwoPhases : Obligations.KeyWaitFollowsItsTwoPhases := by
  unfold Obligations.KeyWaitFollowsItsTwoPhases
  intro s x
  refine ⟨fun hw hkeys => ?_, fun hw k hk hlow => ?_, fun k hw hk => ?_, fun k hw hk => ?_⟩
  · exact ⟨_, exec_ldKey_of_no_press hw hkeys, rfl, setPc_onlyChanges _⟩
  · exact ⟨_, exec_ldKey_of_press hw hk hlow, rfl, rfl,
      ((setWaitKey_onlyChanges _).comp (setPc_onlyChanges _)).mono (by simp [or_comm])⟩
  · exact ⟨_, exec_ldKey_of_held hw hk, rfl, setPc_onlyChanges _⟩
  · refine ⟨_, exec_ldKey_of_released hw hk, ?_, rfl,
      ((setV_onlyChanges _ _).comp (setWaitKey_onlyChanges _)).mono (by simp)⟩
    rw [State.setWaitKey_getV, State.getV_setV_same, toNat_keyCode]

/-! ### Steps of the key wait -/

/-- A retreat takes back the pc advance, whatever the address (R560). -/
theorem State.retreatPc_advancePc (s : State) : s.advancePc.retreatPc = s := by
  rw [State.retreatPc, State.advancePc_pc, BitVec.add_sub_cancel]
  rfl

theorem State.stepCall_of_next (h : step s = .next t) : s.stepCall = t := by
  rw [State.stepCall, h]

theorem step_of_decode {i : Instr} (hs : s.CanFetch) (hw : s.WordAt s.pc.toNat w)
    (hi : decode s.cfg.strictDecode w = i) : step s = exec i s.advancePc := by
  rw [step_of_fetch hs.1 (State.fetch_of_wordAt hs hw), hi]

/-- Settles O44: in both cases FX0A only retreats, from the pc that the fetch advanced. -/
theorem waitingKeyStepIsAFixedPoint : Obligations.WaitingKeyStepIsAFixedPoint := by
  unfold Obligations.WaitingKeyStepIsAFixedPoint
  intro s w x hs hw hi hwaiting
  rw [step_of_decode hs hw hi]
  rcases hwaiting with ⟨hnone, hkeys⟩ | ⟨k, hsome, hk⟩
  · rw [exec_ldKey_of_no_press (s := s.advancePc) hnone hkeys, State.retreatPc_advancePc]
  · rw [exec_ldKey_of_held (s := s.advancePc) hsome hk, State.retreatPc_advancePc]

/-- A step of FX0A that sees a press records the key and comes back to the same pc (R560). -/
theorem step_ldKey_of_press (hs : s.CanFetch) (hw : s.WordAt s.pc.toNat w)
    (hi : decode s.cfg.strictDecode w = .ldKey x) (hnone : s.waitKey = none)
    (hk : s.keyPressed k = true) (hlow : ∀ j < k, s.keyPressed j = false) :
    step s = .next (s.setWaitKey (some k)) := by
  rw [step_of_decode hs hw hi, exec_ldKey_of_press (s := s.advancePc) hnone hk hlow]
  exact congrArg _ (s.setWaitKey (some k)).retreatPc_advancePc

/-- A step of FX0A that sees the recorded key released writes its code and goes on (R560). -/
theorem step_ldKey_of_released (hs : s.CanFetch) (hw : s.WordAt s.pc.toNat w)
    (hi : decode s.cfg.strictDecode w = .ldKey x) (hsome : s.waitKey = some k)
    (hk : s.keyPressed k = false) :
    step s = .next ((s.advancePc.setV x (keyCode k)).setWaitKey none) := by
  rw [step_of_decode hs hw hi, exec_ldKey_of_released (s := s.advancePc) hsome hk]

/-- Settles O45: the press step leaves pc and memory, so the step after the poll fetches the same word and
finds the recorded key released; it forgets the key, as before the press none was recorded. -/
theorem pressThenReleaseCompletesKeyWait : Obligations.PressThenReleaseCompletesKeyWait := by
  unfold Obligations.PressThenReleaseCompletesKeyWait
  intro s w x k released hs hw hi hnone hk hlow hreleased
  have hpress := step_ldKey_of_press hs hw hi hnone hk hlow
  have hrelease := step_ldKey_of_released (s := (s.setWaitKey (some k)).pollInput released)
    hs hw hi rfl hreleased
  have hdone : s.afterCalls [.step, .pollInput released, .step] =
      (s.pollInput released).advancePc.setV x (keyCode k) := calc
    _ = ((s.setWaitKey (some k)).pollInput released).stepCall := by
      rw [State.afterCalls_cons, State.afterCall_step, State.stepCall_of_next hpress]
      rfl
    _ = ((s.pollInput released).advancePc.setV x (keyCode k)).setWaitKey none :=
      State.stepCall_of_next hrelease
    _ = _ := by
      rw [← hnone]
      rfl
  refine ⟨_, hdone, ?_, rfl, hnone, (((pollInput_onlyChanges released).comp
    (setPc_onlyChanges _)).comp (setV_onlyChanges x _)).mono (by simp [or_comm])⟩
  rw [State.getV_setV_same, toNat_keyCode]

end Instructions

end Sys2Proof.Machine

/-! ## Timers

O46, O47 and O48 are the numbers behind the 8.8 format, each with the frame of the write. O49 reads the
table of writes: a step that changes a part beside pc and status runs an instruction that may write it, and
only FX15 and FX18 may write a timer. O51 is one equation, `exec_withTimers`, split as the bodies are: where
the table of fatal causes names one, the same halt, and elsewhere the same meaning. -/

namespace Sys2Proof.Machine

variable {s t : State} {i : Instr}

/-! ### The format (R112) -/

theorem toNat_timerInteger (timer : Word) : (timerInteger timer).toNat = timer.toNat / 256 := by
  rw [timerInteger, BitVec.extractLsb'_toNat, Nat.shiftRight_eq_div_pow]
  omega

theorem toNat_timerOf (b : Byte) : (timerOf b).toNat = 256 * b.toNat := by
  rw [timerOf, BitVec.toNat_shiftLeft, BitVec.toNat_setWidth, Nat.shiftLeft_eq]
  omega

/-- A timer stops at 0, as subtraction of naturals does (R580). -/
theorem toNat_lowered (timer dec : Word) : (lowered timer dec).toNat = timer.toNat - dec.toNat := by
  unfold lowered
  split
  case isTrue hge => exact BitVec.toNat_sub_of_le hge
  case isFalse hlt => exact (Nat.sub_eq_zero_of_le (Nat.le_of_not_ge hlt)).symm

/-- Settles O46: FX07 writes the integer part of DT to VX. -/
theorem readTimerIsTheIntegerPart : Obligations.ReadTimerIsTheIntegerPart := by
  unfold Obligations.ReadTimerIsTheIntegerPart
  intro s x
  refine ⟨_, rfl, ?_, setV_onlyChanges x _⟩
  rw [State.getV_setV_same, toNat_timerInteger]

/-- Settles O47: each writes the whole count VX to its timer. -/
theorem setTimersToWholeCounts : Obligations.SetTimersToWholeCounts := by
  unfold Obligations.SetTimersToWholeCounts
  intro s x
  exact ⟨⟨_, rfl, toNat_timerOf _, setDT_onlyChanges _⟩,
    ⟨_, rfl, toNat_timerOf _, setST_onlyChanges _⟩⟩

/-! ### The countdown -/

theorem State.decay_of_running (h : s.Running) (dec : Word) :
    s.decay dec = (s.setDT (lowered s.DT dec)).setST (lowered s.ST dec) := by
  simp only [State.decay, h]

theorem State.decay_of_not_running (h : ¬ s.Running) (dec : Word) : s.decay dec = s := by
  cases hs : s.status with
  | running => exact absurd hs h
  | halted c p w => exact State.decay_of_halted hs dec

/-- Settles O48: on a running block decay writes the two lowered timers. -/
theorem decayLowersBothTimers : Obligations.DecayLowersBothTimers := by
  unfold Obligations.DecayLowersBothTimers
  refine fun s dec => ⟨fun hs => ?_, fun hs => State.decay_of_not_running hs dec⟩
  rw [State.decay_of_running hs]
  exact ⟨toNat_lowered _ _, toNat_lowered _ _,
    ((setDT_onlyChanges _).comp (setST_onlyChanges _)).mono (by simp)⟩

/-- No decay raises a timer, on a running or a halted block (R583). -/
theorem State.decay_le (s : State) (dec : Word) :
    (s.decay dec).DT.toNat ≤ s.DT.toNat ∧ (s.decay dec).ST.toNat ≤ s.ST.toNat := by
  obtain ⟨hrunning, hhalted⟩ := decayLowersBothTimers s dec
  by_cases hs : s.Running
  · obtain ⟨hDT, hST, -⟩ := hrunning hs
    omega
  · rw [hhalted hs]
    exact ⟨le_rfl, le_rfl⟩

/-! ### Who writes a timer -/

/-- A body changes only what its rule names: where it halts, the status. -/
theorem exec_onlyChanges (hx : exec i s = .next t) :
    OnlyChanges (fun p => p ∈ [Part.status] ∨ mayWrite s i p) s t := by
  rcases exec_cases hx with ⟨c, -, rfl⟩ | ⟨-, hframe⟩
  · exact (halt_onlyChanges _ _ _).mono fun _ => .inl
  · exact hframe.mono fun _ => .inr

/-- A call of `step` changes pc, the status, and what the instruction it fetched may write. -/
theorem stepCall_onlyChanges (s : State) :
    OnlyChanges (fun p => p ∈ [Part.pc] ∨ p ∈ [Part.status] ∨
      ∃ w, s.fetch = some w ∧ mayWrite s.advancePc (decode s.cfg.strictDecode w) p) s s.stepCall := by
  rcases s.stepCall_cases with hsame | hnext
  · rw [hsame]
    exact .refl _ _
  · obtain ⟨-, ⟨-, hfail⟩ | ⟨w, hw, hx⟩⟩ := step_cases hnext
    · rw [hfail]
      exact (halt_onlyChanges _ _ _).mono fun _ hp => .inr (.inl hp)
    · exact ((setPc_onlyChanges _).comp (exec_onlyChanges hx)).mono fun _ hp =>
        hp.imp_right (Or.imp_right fun hwrites => ⟨w, hw, hwrites⟩)

theorem mayWrite_of_stepCall_changes {p : Part} (hp : ¬ p.Same s s.stepCall) (hpc : p ≠ .pc)
    (hstatus : p ≠ .status) :
    ∃ w, s.fetch = some w ∧ mayWrite s.advancePc (decode s.cfg.strictDecode w) p := by
  by_contra hno
  exact hp (stepCall_onlyChanges s p (by simpa [hpc, hstatus] using hno))

theorem mayWrite_DT_iff : mayWrite s i .DT ↔ ∃ x, i = .ldDT x := by
  cases i <;> simp [mayWrite]

theorem mayWrite_ST_iff : mayWrite s i .ST ↔ ∃ x, i = .ldST x := by
  cases i <;> simp [mayWrite]

/-- Settles O49: a decay raises no timer, a poll touches none, and a step that changes a timer fetched the
instruction that writes it. -/
theorem timersRiseOnlyWhenSet : Obligations.TimersRiseOnlyWhenSet := by
  unfold Obligations.TimersRiseOnlyWhenSet
  intro s call
  cases call with
  | step =>
    refine ⟨fun hrise => ⟨rfl, ?_⟩, fun hrise => ⟨rfl, ?_⟩⟩
    · have hchanged : ¬ Part.DT.Same s s.stepCall := fun hsame => hrise.ne' (congrArg _ hsame)
      obtain ⟨w, hw, hwrites⟩ := mayWrite_of_stepCall_changes hchanged nofun nofun
      obtain ⟨x, hx⟩ := mayWrite_DT_iff.1 hwrites
      exact ⟨w, x, hw, hx⟩
    · have hchanged : ¬ Part.ST.Same s s.stepCall := fun hsame => hrise.ne' (congrArg _ hsame)
      obtain ⟨w, hw, hwrites⟩ := mayWrite_of_stepCall_changes hchanged nofun nofun
      obtain ⟨x, hx⟩ := mayWrite_ST_iff.1 hwrites
      exact ⟨w, x, hw, hx⟩
  | decay dec =>
    obtain ⟨hDT, hST⟩ := s.decay_le dec
    exact ⟨fun hrise => absurd hrise hDT.not_gt, fun hrise => absurd hrise hST.not_gt⟩
  | pollInput keys =>
    exact ⟨fun hrise => absurd hrise (lt_irrefl _), fun hrise => absurd hrise (lt_irrefl _)⟩

/-! ### Other timers -/

/-- The same state with other timers. -/
def State.withTimers (s : State) (dt st : Word) : State := (s.setDT dt).setST st

section WithTimers

variable (dt st : Word)

theorem State.skipIf_withTimers (s : State) (b : Bool) :
    (s.withTimers dt st).skipIf b = (s.skipIf b).withTimers dt st := by
  cases b <;> rfl

theorem State.setRegs_withTimers (s : State) (ps : List (Reg × Byte)) :
    (s.withTimers dt st).setRegs ps = (s.setRegs ps).withTimers dt st := by
  induction ps generalizing s with
  | nil => rfl
  | cons p ps ih => exact ih (s.setV p.1 p.2)

/-- No fatal cause looks at a timer. -/
theorem fatalCauseOf_withTimers : fatalCauseOf (s.withTimers dt st) i = fatalCauseOf s i := by
  cases i <;> rfl

variable {dt st}

/-- Two answers that agree but for the timers, as one equation. -/
theorem exec_withTimers_of_next (hx : exec i s = .next t)
    (hx' : exec i (s.withTimers dt st) = .next (t.withTimers dt st)) :
    exec i (s.withTimers dt st) = mapNext (·.withTimers dt st) (exec i s) := by
  rw [hx, hx', mapNext_next]

theorem exec_ldKey_withTimers (x : Reg) :
    exec (.ldKey x) (s.withTimers dt st) = mapNext (·.withTimers dt st) (exec (.ldKey x) s) := by
  cases hw : s.waitKey with
  | none => exact exec_withTimers_of_next (exec_ldKey_of_none hw) (exec_ldKey_of_none hw)
  | some k =>
    cases hk : s.keyPressed k with
    | true => exact exec_withTimers_of_next (exec_ldKey_of_held hw hk) (exec_ldKey_of_held hw hk)
    | false =>
      exact exec_withTimers_of_next (exec_ldKey_of_released hw hk) (exec_ldKey_of_released hw hk)

/-- A body that completes does so whatever the timers hold. -/
theorem exec_withTimers_of_completes (hi : ∀ x, i ≠ .ldFromDT x ∧ i ≠ .ldDT x ∧ i ≠ .ldST x)
    (hc : fatalCauseOf s i = none) :
    exec i (s.withTimers dt st) = mapNext (·.withTimers dt st) (exec i s) := by
  cases i with
  | ldFromDT x => exact absurd rfl (hi x).1
  | ldDT x => exact absurd rfl (hi x).2.1
  | ldST x => exact absurd rfl (hi x).2.2
  | seByte _ _ | sneByte _ _ | seReg _ _ | sneReg _ _ =>
    exact congrArg _ (State.skipIf_withTimers dt st s _)
  | ret =>
    obtain ⟨rest, v, hstack⟩ := (List.eq_nil_or_concat' s.stack).resolve_left (not_of_guard_eq_none hc)
    exact exec_withTimers_of_next (exec_ret_of_concat hstack) (exec_ret_of_concat hstack)
  | call nnn =>
    have hroom := Nat.not_le.1 (not_of_guard_eq_none hc)
    exact exec_withTimers_of_next (exec_call_of_lt hroom) (exec_call_of_lt hroom)
  | drw x y n =>
    have hin := Nat.not_lt.1 (not_of_guard_eq_none hc)
    exact exec_withTimers_of_next (exec_drw_of_le hin) (exec_drw_of_le hin)
  | skp x =>
    have hkey := Nat.lt_succ_of_le (Nat.not_lt.1 (not_of_guard_eq_none hc))
    refine exec_withTimers_of_next (exec_skp_of_key (k := ⟨_, hkey⟩) rfl) ?_
    rw [← State.skipIf_withTimers]
    exact exec_skp_of_key rfl
  | sknp x =>
    have hkey := Nat.lt_succ_of_le (Nat.not_lt.1 (not_of_guard_eq_none hc))
    refine exec_withTimers_of_next (exec_sknp_of_key (k := ⟨_, hkey⟩) rfl) ?_
    rw [← State.skipIf_withTimers]
    exact exec_sknp_of_key rfl
  | ldKey x => exact exec_ldKey_withTimers x
  | ldGlyph x =>
    have hdigit := Nat.lt_succ_of_le (Nat.not_lt.1 (not_of_guard_eq_none hc))
    exact exec_withTimers_of_next (exec_ldGlyph_of_digit (d := ⟨_, hdigit⟩) rfl)
      (exec_ldGlyph_of_digit rfl)
  | ldBcd x =>
    have hin := Nat.not_lt.1 (not_of_guard_eq_none hc)
    exact exec_withTimers_of_next (exec_ldBcd_of_le hin) (exec_ldBcd_of_le hin)
  | storeRegs x =>
    have hin := Nat.not_lt.1 (not_of_guard_eq_none hc)
    exact exec_withTimers_of_next (exec_storeRegs_of_le hin) (exec_storeRegs_of_le hin)
  | loadRegs x =>
    have hin := Nat.not_lt.1 (not_of_guard_eq_none hc)
    refine exec_withTimers_of_next (exec_loadRegs_of_le hin) ?_
    rw [← State.setRegs_withTimers]
    exact exec_loadRegs_of_le hin
  | _ => rfl

/-- Beside FX07, FX15 and FX18, no instruction reads a timer, and none writes one. -/
theorem exec_withTimers (hi : ∀ x, i ≠ .ldFromDT x ∧ i ≠ .ldDT x ∧ i ≠ .ldST x) :
    exec i (s.withTimers dt st) = mapNext (·.withTimers dt st) (exec i s) := by
  cases hc : fatalCauseOf s i with
  | some c =>
    exact exec_withTimers_of_next (exec_of_fatalCauseOf hc)
      (exec_of_fatalCauseOf ((fatalCauseOf_withTimers dt st).trans hc))
  | none => exact exec_withTimers_of_completes hi hc

end WithTimers

/-- Settles O51: with other timers the instruction answers the same state with those timers. -/
theorem timersMatterOnlyToTimerInstructions : Obligations.TimersMatterOnlyToTimerInstructions := by
  unfold Obligations.TimersMatterOnlyToTimerInstructions
  intro i s t dt st hi hx
  have hrun := exec_withTimers (s := s) (dt := dt) (st := st) hi
  rwa [hx] at hrun

end Sys2Proof.Machine

/-! ## Exceptions

O14 is the table of fatal causes (R604): the split of an instruction's body under Dispatch, read once as
what the body halts with and once as the status it leaves. -/

namespace Sys2Proof.Machine

variable {s : State} {i : Instr} {c : Cause}

/-- R604, read forwards: the table's cause is what the body halts the block with. -/
theorem haltsWith_of_fatalCauseOf (h : fatalCauseOf s i = some c) : HaltsWith c i s :=
  haltsWith_of_raiseFatal (exec_of_fatalCauseOf h)

/-- R604, the converse: outside the table's conditions no body touches the status. -/
theorem exec_keeps_status_of_fatalCauseOf (h : fatalCauseOf s i = none) :
    ∃ t, exec i s = .next t ∧ t.status = s.status := by
  obtain ⟨t, hx, hframe⟩ := completes_of_fatalCauseOf h
  have hstatus : Part.status.Same s t := hframe .status fun hwrites => hwrites.2 rfl
  exact ⟨t, hx, hstatus⟩

/-- Settles O14: the codes are read off, the fetch row is the halt of a fetch past memory, and each body
row is one of the two readings of the table. -/
theorem fatalCausesFollowTheTable : Obligations.FatalCausesFollowTheTable := by
  unfold Obligations.FatalCausesFollowTheTable
  refine ⟨⟨rfl, rfl, rfl, rfl, rfl, rfl⟩, fun s hs hpc => ?_, fun i s => ⟨fun c hc => ?_, fun hc => ?_⟩⟩
  · obtain ⟨t, hx, hstatus, -⟩ := fetchPastMemoryHaltsTheBlock s hs hpc
    exact ⟨t, hx, hstatus⟩
  · exact haltsWith_of_fatalCauseOf hc
  · exact exec_keeps_status_of_fatalCauseOf hc

end Sys2Proof.Machine

/-! ## Reset and schedules

O2 is the load of the empty program, and O55 and O57 start from any load: what it leaves is legal. O55
carries that along a finite schedule, and O57 cuts an infinite one into finite ones, with O11 from the halt
on. O58 is a simulation: the
run without the decay calls follows the run with them, timers apart. O53 and O59 look at one tick of the
reference host: on which side of the period its time falls, and which calls it makes. -/

namespace Sys2Proof

/-- Every admitted build holds at least the reserved range below the program (D2). -/
theorem Config.romStart_le_capacity {cfg : Config} (h : cfg.wf = true) : romStart ≤ cfg.capacity := by
  simp only [Config.wf, Bool.and_eq_true, decide_eq_true_eq] at h
  obtain ⟨⟨⟨⟨hlow, -⟩, -⟩, -⟩, -⟩ := h
  exact hlow

end Sys2Proof

namespace Sys2Proof.Machine

variable {s t : State}

/-! ### The state that `load` leaves is legal -/

section Load

variable {cfg : Config} {rom : List Byte}

theorem State.inv_resetWith (h : cfg.wf = true) : (State.resetWith cfg).Inv where
  cfg := h
  mem := Memory.wf_nil
  space := nofun
  stack := Nat.zero_le _
  fb := ⟨.nil, nofun⟩
  status := trivial

theorem State.inv_loaded (h : cfg.wf = true) (hfits : rom.length ≤ cfg.capacity - romStart) :
    (State.loaded cfg rom).Inv := by
  have hroom := Config.romStart_le_capacity h
  exact (State.inv_resetWith h).writeBytes (show romStart + rom.length ≤ cfg.capacity by omega)

/-- Everything `load` can do when it answers a state. -/
theorem load_ok (h : load cfg rom = .ok s) :
    rom.length ≤ cfg.capacity - romStart ∧ s = State.loaded cfg rom := by
  rcases Nat.lt_or_ge (cfg.capacity - romStart) rom.length with hlong | hfits
  · rw [load_of_gt hlong] at h
    cases h
  · rw [load_of_le hfits, Except.ok.injEq] at h
    exact ⟨hfits, h.symm⟩

theorem inv_of_load (hcfg : cfg.wf = true) (h : load cfg rom = .ok s) : s.Inv ∧ s.cfg = cfg := by
  obtain ⟨hfits, rfl⟩ := load_ok h
  exact ⟨State.inv_loaded hcfg hfits, rfl⟩

end Load

/-- Settles O2: the empty program writes nothing over the reset state, which is legal on an admitted build. -/
theorem resetStateIsLegalAndFetches : Obligations.ResetStateIsLegalAndFetches :=
  ⟨load_of_le (Nat.zero_le _), State.inv_resetWith (by decide), ⟨rfl, by decide⟩, rfl⟩

/-! ### Along a schedule -/

/-- Settles O55: what a load leaves is legal under the build's parameters, and every host call keeps it so. -/
theorem everyScheduleFromLoadStaysLegal : Obligations.EveryScheduleFromLoadStaysLegal := by
  unfold Obligations.EveryScheduleFromLoadStaysLegal
  intro cfg rom s calls hcfg hload
  refine State.afterCalls_invariant (P := fun u => u.Inv ∧ u.cfg = cfg) s (fun u call hu => ?_)
    (inv_of_load hcfg hload) calls
  obtain ⟨hinv, hparams⟩ := hu
  exact ⟨afterCall_keeps_inv hinv call, (afterCall_keeps_cfg u call).trans hparams⟩

/-- From a halt on, an infinite schedule changes the key levels only (R602). -/
theorem afterFirst_onlyChanges_keys (s : State) (schedule : InfiniteSchedule) {n m : Nat} (hnm : n ≤ m)
    (hhalted : ¬ (s.afterFirst schedule n).Running) :
    OnlyChanges (· ∈ [Part.keys]) (s.afterFirst schedule n) (s.afterFirst schedule m) := by
  obtain ⟨k, rfl⟩ := Nat.exists_eq_add_of_le hnm
  rw [State.afterFirst_add, State.afterFirst_eq_afterCalls _ _ k]
  cases hstatus : (s.afterFirst schedule n).status with
  | running => exact absurd hstatus hhalted
  | halted c p w =>
    obtain ⟨-, -, -, hfrozen⟩ := haltedBlockStaysFrozen _ c p w hstatus
    exact hfrozen _

/-- Settles O57: each state of an infinite schedule is the end of a finite one, and a halt is for good. -/
theorem infiniteScheduleStaysLegalAndHaltsForGood :
    Obligations.InfiniteScheduleStaysLegalAndHaltsForGood := by
  unfold Obligations.InfiniteScheduleStaysLegalAndHaltsForGood
  intro cfg rom s schedule hcfg hload
  refine ⟨fun n => ?_, fun n m => afterFirst_onlyChanges_keys s schedule⟩
  rw [State.afterFirst_eq_afterCalls]
  exact everyScheduleFromLoadStaysLegal cfg rom s _ hcfg hload

/-! ### Leaving out the decay calls -/

section Timers

variable {i : Instr} {calls : List HostCall} {call : HostCall}

theorem State.sameButTimers_iff : s.SameButTimers t ↔ ∃ dt st, t = s.withTimers dt st := by
  constructor
  · exact fun h => ⟨t.DT, t.ST, h.symm⟩
  · rintro ⟨dt, st, rfl⟩
    rfl

theorem State.sameButTimers_withTimers (s : State) (dt st : Word) :
    s.SameButTimers (s.withTimers dt st) := State.sameButTimers_iff.2 ⟨dt, st, rfl⟩

/-- Beside FX07 no instruction looks at a timer: under other timers its answer differs in the timers at
most, which only FX15 and FX18 write. -/
theorem exec_sameButTimers (hi : ∀ x, i ≠ .ldFromDT x) (hx : exec i s = .next t) (dt st : Word) :
    ∃ u, exec i (s.withTimers dt st) = .next u ∧ t.SameButTimers u := by
  by_cases hset : ∃ x, i = .ldDT x ∨ i = .ldST x
  · obtain ⟨x, rfl | rfl⟩ := hset
    · cases hx
      exact ⟨_, rfl, State.sameButTimers_withTimers _ (timerOf (s.getV x)) st⟩
    · cases hx
      exact ⟨_, rfl, State.sameButTimers_withTimers _ dt (timerOf (s.getV x))⟩
  · have hother : ∀ x, i ≠ .ldDT x ∧ i ≠ .ldST x := by simpa using hset
    refine ⟨t.withTimers dt st, ?_, State.sameButTimers_withTimers t dt st⟩
    rw [exec_withTimers fun x => ⟨hi x, hother x⟩, hx, mapNext_next]

/-- A step of the running block would not run FX07. -/
def State.FetchesNoTimerRead (s : State) : Prop :=
  s.Running → ∀ w, s.fetch = some w → ∀ x, decode s.cfg.strictDecode w ≠ .ldFromDT x

theorem stepCall_sameButTimers (hno : s.FetchesNoTimerRead) (h : s.SameButTimers t) :
    s.stepCall.SameButTimers t.stepCall := by
  obtain ⟨dt, st, rfl⟩ := State.sameButTimers_iff.1 h
  cases hs : s.status with
  | halted c p w =>
    rwa [State.stepCall_of_halted hs, State.stepCall_of_halted (s := s.withTimers dt st) hs]
  | running =>
    cases hf : s.fetch with
    | none =>
      rw [State.stepCall_of_next (step_of_fetch_none hs hf),
        State.stepCall_of_next (step_of_fetch_none (s := s.withTimers dt st) hs hf)]
      exact State.sameButTimers_withTimers s.raiseFetchFatal dt st
    | some w =>
      obtain ⟨u, hu⟩ := exec_answers (decode s.cfg.strictDecode w) s.advancePc
      obtain ⟨v, hv, hsame⟩ := exec_sameButTimers (hno hs w hf) hu dt st
      rw [State.stepCall_of_next ((step_of_fetch hs hf).trans hu),
        State.stepCall_of_next ((step_of_fetch (s := s.withTimers dt st) hs hf).trans hv)]
      exact hsame

/-- A decay on one side only is invisible to the other fields (R580). -/
theorem decay_sameButTimers (h : s.SameButTimers t) (dec : Word) : (s.decay dec).SameButTimers t := by
  obtain ⟨dt, st, rfl⟩ := State.sameButTimers_iff.1 h
  rw [State.decay_eq_setTimers]
  exact State.sameButTimers_withTimers _ dt st

theorem pollInput_sameButTimers (h : s.SameButTimers t) (keys : Vector Bool 16) :
    (s.pollInput keys).SameButTimers (t.pollInput keys) := by
  obtain ⟨dt, st, rfl⟩ := State.sameButTimers_iff.1 h
  exact State.sameButTimers_withTimers (s.pollInput keys) dt st

theorem State.ReadsNoTimer.first_step (h : s.ReadsNoTimer (.step :: calls)) : s.FetchesNoTimerRead :=
  h [] calls rfl

theorem State.ReadsNoTimer.after_call (h : s.ReadsNoTimer (call :: calls)) :
    (s.afterCall call).ReadsNoTimer calls :=
  fun before after hcalls => h (call :: before) after (by rw [hcalls, List.cons_append])

/-- The run without the decay calls follows the run with them, timers apart. -/
theorem afterCalls_sameButTimers (h : s.SameButTimers t) (hread : s.ReadsNoTimer calls) :
    (s.afterCalls calls).SameButTimers (t.afterCalls (calls.filter (!·.isDecay))) := by
  induction calls generalizing s t with
  | nil => exact h
  | cons call calls ih =>
    have hrest := hread.after_call
    cases call with
    | step => exact ih (stepCall_sameButTimers hread.first_step h) hrest
    | decay dec => exact ih (decay_sameButTimers h dec) hrest
    | pollInput keys => exact ih (pollInput_sameButTimers h keys) hrest

end Timers

/-- Settles O58: both runs begin in the same state. -/
theorem decayCallsReachOnlyRunsThatReadDT : Obligations.DecayCallsReachOnlyRunsThatReadDT := by
  unfold Obligations.DecayCallsReachOnlyRunsThatReadDT
  exact fun s calls hread => afterCalls_sameButTimers (s.sameButTimers_withTimers s.DT s.ST) hread

/-! ### The reference host -/

section Ticks

variable {d : Driver} {dt : ℚ} {keys : Vector Bool 16}

/-- The decay amount saturates at the largest word (R581). -/
theorem toNat_decayAmount (dt : ℚ) : (decayAmount dt).toNat = min 65535 ⌊dt * 60 * 256⌋₊ := by
  rw [decayAmount, BitVec.toNat_ofNat]
  exact Nat.mod_eq_of_lt (Nat.lt_succ_of_le (Nat.min_le_left _ _))

theorem Driver.tick_of_lt (h : d.acc + dt < instructionPeriod) :
    d.tick dt keys = ⟨d.block.decay (decayAmount dt), d.acc + dt⟩ := if_neg (not_le.2 h)

theorem Driver.tick_of_ge (h : instructionPeriod ≤ d.acc + dt) :
    d.tick dt keys = ⟨(d.block.decay (decayAmount dt)).stepCall.pollInput keys,
      d.acc + dt - instructionPeriod⟩ := if_pos h

/-- Time that has not filled a period stays accumulated, and a period is taken off only where it is
there. -/
theorem Driver.acc_tick_nonneg (hacc : 0 ≤ d.acc) (hdt : 0 ≤ dt) : 0 ≤ (d.tick dt keys).acc := by
  rcases lt_or_ge (d.acc + dt) instructionPeriod with hlt | hge
  · rw [Driver.tick_of_lt hlt]
    exact add_nonneg hacc hdt
  · rw [Driver.tick_of_ge hge]
    exact sub_nonneg.2 hge

/-- The host calls of one tick (R720, R722). -/
def Driver.callsOfTick (d : Driver) (dt : ℚ) (keys : Vector Bool 16) : List HostCall :=
  .decay (decayAmount dt) ::
    if d.acc + dt ≥ instructionPeriod then [.step, .pollInput keys] else []

theorem Driver.callsOf_cons (ticks : List (ℚ × Vector Bool 16)) :
    d.callsOf ((dt, keys) :: ticks) = d.callsOfTick dt keys ++ (d.tick dt keys).callsOf ticks := rfl

theorem Driver.callsOfTick_of_lt (h : d.acc + dt < instructionPeriod) :
    d.callsOfTick dt keys = [.decay (decayAmount dt)] := congrArg _ (if_neg (not_le.2 h))

theorem Driver.callsOfTick_of_ge (h : instructionPeriod ≤ d.acc + dt) :
    d.callsOfTick dt keys = [.decay (decayAmount dt), .step, .pollInput keys] :=
  congrArg _ (if_pos h)

/-- One tick is its calls: one decay, and at most one step. -/
theorem Driver.tick_spec (d : Driver) (dt : ℚ) (keys : Vector Bool 16) :
    (d.tick dt keys).block = d.block.afterCalls (d.callsOfTick dt keys) ∧
      ((d.callsOfTick dt keys).filter HostCall.isDecay).length = 1 ∧
      (d.callsOfTick dt keys).count .step ≤ 1 := by
  rcases lt_or_ge (d.acc + dt) instructionPeriod with hlt | hge
  · rw [Driver.tick_of_lt hlt, Driver.callsOfTick_of_lt hlt]
    exact ⟨rfl, rfl, by simp⟩
  · rw [Driver.tick_of_ge hge, Driver.callsOfTick_of_ge hge]
    exact ⟨rfl, rfl, by simp⟩

end Ticks

/-- Settles O53: each side of the period is one form of the tick, and neither makes the time negative. -/
theorem tickDecaysThenRunsAtMostOneStep : Obligations.TickDecaysThenRunsAtMostOneStep := by
  unfold Obligations.TickDecaysThenRunsAtMostOneStep
  intro d dt keys hacc hdt
  refine ⟨toNat_decayAmount dt, fun hlt => ?_, fun hge => ?_, Driver.acc_tick_nonneg hacc hdt⟩
  · rw [Driver.tick_of_lt hlt]
    exact ⟨rfl, rfl⟩
  · rw [Driver.tick_of_ge hge]
    exact ⟨rfl, rfl⟩

/-- Settles O59: the calls of the ticks are those of the first and then those of the rest, and each tick
counts once. -/
theorem referenceHostIsASchedule : Obligations.ReferenceHostIsASchedule := by
  unfold Obligations.ReferenceHostIsASchedule
  intro d ticks
  induction ticks generalizing d with
  | nil => exact ⟨rfl, rfl, Nat.le_refl 0⟩
  | cons tick ticks ih =>
    obtain ⟨dt, keys⟩ := tick
    obtain ⟨hblock, hdecays, hsteps⟩ := d.tick_spec dt keys
    obtain ⟨ihblock, ihdecays, ihsteps⟩ := ih (d.tick dt keys)
    rw [Driver.afterTicks_cons, Driver.callsOf_cons, State.afterCalls_append, ← hblock,
      List.filter_append, List.length_append, List.count_append, List.length_cons]
    exact ⟨ihblock, by omega, by omega⟩

end Sys2Proof.Machine
